-- ==== Sys2Proof/Word.lean ====
section
/-! DEFINITION. The word types and constants of the CTI24 ALU (spec/00_scope.md R6, R7, R9). -/

namespace Sys2Proof

/-- A 32-bit host word: the container of a 24-bit value on a value port (R6, R17, R23). -/
abbrev HostWord := BitVec 32

/-- A 64-bit port: the foreign operand `X` and the primary result `Y` (R7, R23, R24). -/
abbrev Wide := BitVec 64

/-- A 16-bit command word `CMD` (R50, R51). -/
abbrev CmdWord := BitVec 16

/-- `MASK`: the 24 low bits of a host word (R6). -/
def mask : HostWord := 0x00FFFFFF#32

/-- `SIGN_BIT`: bit 23 of a host word (R6). -/
def signBit : HostWord := 0x00800000#32

/-- `LZ_BIAS`: the host word is 8 bits wider than the 24-bit value (R6). -/
def lzBias : Nat := 8

end Sys2Proof
end

