-- ==== Sys2Proof/Config.lean ====
section
/-! DEFINITION. The three named parameters of the spec (spec/00_scope.md R8). They are arguments of the
machine: `State` holds one `Params`, no step writes it, and every statement is about every setting. -/

namespace Sys2Proof

/-- `F2I_ROUND`: what `CVI.ROUND` does with an exact tie (R8, R179). -/
inductive F2iRound where
  | tiesAway
  | tiesEven
deriving DecidableEq, Repr

/-- `SHR_S_FILL`: what a right shift of the signed type shifts in (R8, R148). -/
inductive ShrSFill where
  | zero
  | sign
deriving DecidableEq, Repr

/-- `MUL_OVF_PARTIAL`: the `Y` of `MULRO` on overflow (R8, R103, R108, R109). -/
inductive MulOvfPartial where
  | zero
  | wrapped
deriving DecidableEq, Repr

/-- One setting of the three parameters (R8: "There are no other parameters"). -/
structure Params where
  f2iRound : F2iRound
  shrSFill : ShrSFill
  mulOvfPartial : MulOvfPartial
deriving DecidableEq, Repr

/-- The default of each parameter as R8 states it. -/
def Params.default : Params := ⟨.tiesAway, .zero, .zero⟩

end Sys2Proof
end

