-- ==== Sys2Proof/Syntax.lean ====
section
/-! DEFINITION. The commands of the CTI24 ALU: one constructor of `Instr` per row of spec/opcode_table.json
(spec/30_encoding.md R53, R54, R57), and the type and format selectors they carry. -/

namespace Sys2Proof

/-- The two 24-bit types (spec/00_scope.md R3): `S24` signed, `U24` unsigned. -/
inductive Ty where
  | s24
  | u24
deriving DecidableEq, Repr

/-- The alternative of a pair that the type bit `T` selects (R54: 0 is `S24`, 1 is `U24`). -/
def Ty.pick {α : Type} : Ty → α → α → α
  | .s24, a, _ => a
  | .u24, _, b => b

/-- The twelve foreign formats `FMT` (R57); codes 0xC to 0xF are reserved and have no constructor. -/
inductive Fmt where
  | i8 | i16 | i32 | i64
  | u8 | u16 | u32 | u64
  | f32 | f64
  | s24 | u24
deriving DecidableEq, Repr

/-- Why a command word is reserved (R60). All four raise the same `Fatal(ILLEGAL)`. -/
inductive Reserved where
  /-- `RSV` (bits 6:4) is not zero (R55). -/
  | rsvField
  /-- `GRP` is 0x7 to 0xF (R52). -/
  | group
  /-- the (`GRP`, `FN`) pair is not in the table of R53. -/
  | function
  /-- `FMT` is not legal for the command (R56, R57, R58). -/
  | format
deriving DecidableEq, Repr

/-- A command: mnemonic and type select the constructor, and the commands of groups `CVI`, `CVO` and `CMP`
carry their foreign format (R53, R56). -/
inductive Instr where
  /-- `ZERO.S` (R81). -/
  | zeroS
  /-- `ZERO.U` (R81). -/
  | zeroU
  /-- `CANON.S` (R82). -/
  | canonS
  /-- `CANON.U` (R82). -/
  | canonU
  /-- `VALUE.S` (R84). -/
  | valueS
  /-- `VALUE.U` (R84). -/
  | valueU
  /-- `RAW.S` (R85). -/
  | rawS
  /-- `RAW.U` (R85). -/
  | rawU
  /-- `BITCAST.S` (R86). -/
  | bitcastS
  /-- `BITCAST.U` (R86). -/
  | bitcastU
  /-- `MAG.S` (R88). -/
  | magS
  /-- `MAG.U` (R88). -/
  | magU
  /-- `SIGNUM.S` (R89). -/
  | signumS
  /-- `SIGNUM.U` (R89). -/
  | signumU
  /-- `WORDS.S` (R91). -/
  | wordsS
  /-- `WORDS.U` (R91). -/
  | wordsU
  /-- `ADDRO.S` (R104). -/
  | addroS
  /-- `ADDRO.U` (R105). -/
  | addroU
  /-- `SUBRO.S` (R106). -/
  | subroS
  /-- `SUBRO.U` (R107). -/
  | subroU
  /-- `MULRO.S` (R108). -/
  | mulroS
  /-- `MULRO.U` (R109). -/
  | mulroU
  /-- `DIVRO.S` (R110). -/
  | divroS
  /-- `DIVRO.U` (R111). -/
  | divroU
  /-- `REMRO.S` (R112). -/
  | remroS
  /-- `REMRO.U` (R113). -/
  | remroU
  /-- `ADD.S` (R115). -/
  | addS
  /-- `ADD.U` (R115). -/
  | addU
  /-- `SUB.S` (R116). -/
  | subS
  /-- `SUB.U` (R116). -/
  | subU
  /-- `MUL.S` (R117). -/
  | mulS
  /-- `MUL.U` (R117). -/
  | mulU
  /-- `DIV.S` (R118). -/
  | divS
  /-- `DIV.U` (R118). -/
  | divU
  /-- `REM.S` (R119). -/
  | remS
  /-- `REM.U` (R119). -/
  | remU
  /-- `DIVREM.S` (R120). -/
  | divremS
  /-- `DIVREM.U` (R120). -/
  | divremU
  /-- `DIVFW.S` (R121). -/
  | divfwS
  /-- `DIVFW.U` (R122). -/
  | divfwU
  /-- `ISMULT.S` (R123). -/
  | ismultS
  /-- `ISMULT.U` (R123). -/
  | ismultU
  /-- `AND.S` (R141). -/
  | andS
  /-- `AND.U` (R141). -/
  | andU
  /-- `OR.S` (R142). -/
  | orS
  /-- `OR.U` (R142). -/
  | orU
  /-- `XOR.S` (R143). -/
  | xorS
  /-- `XOR.U` (R143). -/
  | xorU
  /-- `NOT.S` (R144). -/
  | notS
  /-- `NOT.U` (R144). -/
  | notU
  /-- `SHL.S` (R147). -/
  | shlS
  /-- `SHL.U` (R147). -/
  | shlU
  /-- `SHR.S` (R148). -/
  | shrS
  /-- `SHR.U` (R148). -/
  | shrU
  /-- `BSWAP.S` (R150). -/
  | bswapS
  /-- `BSWAP.U` (R150). -/
  | bswapU
  /-- `POPCNT.S` (R152). -/
  | popcntS
  /-- `POPCNT.U` (R152). -/
  | popcntU
  /-- `CLZ.S` (R153). -/
  | clzS
  /-- `CLZ.U` (R153). -/
  | clzU
  /-- `CTZ.S` (R154). -/
  | ctzS
  /-- `CTZ.U` (R154). -/
  | ctzU
  /-- `CVI.EXACT.S` (R174). -/
  | cviExactS (f : Fmt)
  /-- `CVI.EXACT.U` (R174). -/
  | cviExactU (f : Fmt)
  /-- `CVI.EXACTLY.S` (R175). -/
  | cviExactlyS (f : Fmt)
  /-- `CVI.EXACTLY.U` (R175). -/
  | cviExactlyU (f : Fmt)
  /-- `CVI.TRUNC.S` (R176). -/
  | cviTruncS (f : Fmt)
  /-- `CVI.TRUNC.U` (R176). -/
  | cviTruncU (f : Fmt)
  /-- `CVI.CLAMP.S` (R177). -/
  | cviClampS (f : Fmt)
  /-- `CVI.CLAMP.U` (R177). -/
  | cviClampU (f : Fmt)
  /-- `CVI.ROUND.S` (R178). -/
  | cviRoundS (f : Fmt)
  /-- `CVI.ROUND.U` (R178). -/
  | cviRoundU (f : Fmt)
  /-- `CVO.EXACT.S` (R181). -/
  | cvoExactS (f : Fmt)
  /-- `CVO.EXACT.U` (R181). -/
  | cvoExactU (f : Fmt)
  /-- `CVO.EXACTLY.S` (R182). -/
  | cvoExactlyS (f : Fmt)
  /-- `CVO.EXACTLY.U` (R182). -/
  | cvoExactlyU (f : Fmt)
  /-- `CVO.TRUNC.S` (R183). -/
  | cvoTruncS (f : Fmt)
  /-- `CVO.TRUNC.U` (R183). -/
  | cvoTruncU (f : Fmt)
  /-- `CVO.CLAMP.S` (R184). -/
  | cvoClampS (f : Fmt)
  /-- `CVO.CLAMP.U` (R184). -/
  | cvoClampU (f : Fmt)
  /-- `CVO.FLOAT.S` (R185). -/
  | cvoFloatS (f : Fmt)
  /-- `CVO.FLOAT.U` (R185). -/
  | cvoFloatU (f : Fmt)
  /-- `CMPEQ.S` (R203). -/
  | cmpeqS (f : Fmt)
  /-- `CMPEQ.U` (R203). -/
  | cmpeqU (f : Fmt)
  /-- `CMPNE.S` (R204). -/
  | cmpneS (f : Fmt)
  /-- `CMPNE.U` (R204). -/
  | cmpneU (f : Fmt)
  /-- `CMPLT.S` (R205). -/
  | cmpltS (f : Fmt)
  /-- `CMPLT.U` (R205). -/
  | cmpltU (f : Fmt)
  /-- `CMPLE.S` (R206). -/
  | cmpleS (f : Fmt)
  /-- `CMPLE.U` (R206). -/
  | cmpleU (f : Fmt)
  /-- `CMPGT.S` (R207). -/
  | cmpgtS (f : Fmt)
  /-- `CMPGT.U` (R207). -/
  | cmpgtU (f : Fmt)
  /-- `CMPGE.S` (R208). -/
  | cmpgeS (f : Fmt)
  /-- `CMPGE.U` (R208). -/
  | cmpgeU (f : Fmt)
deriving DecidableEq, Repr

end Sys2Proof
end

