-- ==== Sys2Proof/WellFormed.lean ====
section
/-! DEFINITION. Which terms of `Instr` are commands of the block: the legal foreign formats of each command
(spec/30_encoding.md R58). -/

namespace Sys2Proof

/-- The native integer formats `I8` to `U64`, `FMT` 0x0 to 0x7 (R57). -/
def Fmt.isNativeInt : Fmt → Bool
  | .i8 | .i16 | .i32 | .i64 | .u8 | .u16 | .u32 | .u64 => true
  | .f32 | .f64 | .s24 | .u24 => false

/-- The integer formats: `FMT` 0x0 to 0x7, 0xA, 0xB (R57). -/
def Fmt.isInt : Fmt → Bool
  | .i8 | .i16 | .i32 | .i64 | .u8 | .u16 | .u32 | .u64 | .s24 | .u24 => true
  | .f32 | .f64 => false

/-- The floating formats: `FMT` 0x8, 0x9 (R57). -/
def Fmt.isFloat : Fmt → Bool
  | .f32 | .f64 => true
  | .i8 | .i16 | .i32 | .i64 | .u8 | .u16 | .u32 | .u64 | .s24 | .u24 => false

/-- R58: a command term is well formed when its format is one the command's row of R58 lists. -/
def Instr.wellFormed : Instr → Bool
  | .zeroS | .zeroU | .canonS | .canonU | .valueS | .valueU | .rawS | .rawU | .bitcastS | .bitcastU
  | .magS | .magU | .signumS | .signumU | .wordsS | .wordsU | .addroS | .addroU | .subroS | .subroU
  | .mulroS | .mulroU | .divroS | .divroU | .remroS | .remroU | .addS | .addU | .subS | .subU | .mulS
  | .mulU | .divS | .divU | .remS | .remU | .divremS | .divremU | .divfwS | .divfwU | .ismultS
  | .ismultU | .andS | .andU | .orS | .orU | .xorS | .xorU | .notS | .notU | .shlS | .shlU | .shrS
  | .shrU | .bswapS | .bswapU | .popcntS | .popcntU | .clzS | .clzU | .ctzS | .ctzU => true
  | .cviExactS f | .cviExactU f | .cviTruncS f | .cviTruncU f | .cviClampS f | .cviClampU f => f.isInt
  | .cviExactlyS _ | .cviExactlyU _ | .cmpeqS _ | .cmpeqU _ | .cmpneS _ | .cmpneU _ | .cmpltS _
  | .cmpltU _ | .cmpleS _ | .cmpleU _ | .cmpgtS _ | .cmpgtU _ | .cmpgeS _ | .cmpgeU _ => true
  | .cviRoundS f | .cviRoundU f | .cvoFloatS f | .cvoFloatU f => f.isFloat
  | .cvoExactS f | .cvoExactU f | .cvoExactlyS f | .cvoExactlyU f | .cvoTruncS f | .cvoTruncU f
  | .cvoClampS f | .cvoClampU f => f.isNativeInt

end Sys2Proof
end

