-- ==== Sys2Proof/Decode.lean ====
section
/-! DEFINITION. The decoder of command words, total on all 65536 words and rejecting by name
(spec/30_encoding.md R51 to R62), and after it the encoder. -/

namespace Sys2Proof

/-- `GRP = CMD[15:12]` (R51). -/
def grpField (w : CmdWord) : Nat := (w.extractLsb' 12 4).toNat

/-- `FN = CMD[11:8]` (R51). -/
def fnField (w : CmdWord) : Nat := (w.extractLsb' 8 4).toNat

/-- `T = CMD[7]`: 0 selects `S24`, 1 selects `U24` (R51, R54). -/
def tyField (w : CmdWord) : Ty := if w.getLsbD 7 then .u24 else .s24

/-- `RSV = CMD[6:4]` (R51, R55). -/
def rsvField (w : CmdWord) : Nat := (w.extractLsb' 4 3).toNat

/-- `FMT = CMD[3:0]` (R51). -/
def fmtField (w : CmdWord) : Nat := (w.extractLsb' 0 4).toNat

/-- The format with a given `FMT` code; 0xC to 0xF are reserved (R57). -/
def fmtOfCode : Nat → Option Fmt
  | 0x0 => some .i8
  | 0x1 => some .i16
  | 0x2 => some .i32
  | 0x3 => some .i64
  | 0x4 => some .u8
  | 0x5 => some .u16
  | 0x6 => some .u32
  | 0x7 => some .u64
  | 0x8 => some .f32
  | 0x9 => some .f64
  | 0xA => some .s24
  | 0xB => some .u24
  | _ => none

/-- One row of the command table: a command without a foreign operand, whose `FMT` must be 0000 (R56), or one
with a foreign operand and the formats R58 allows it. -/
inductive OpRow where
  | plain (make : Ty → Instr)
  | foreign (legal : Fmt → Bool) (make : Ty → Fmt → Instr)

/-- Formats of the comparisons and of `CVI.EXACTLY`: all twelve (R58). -/
def anyFmt (_ : Fmt) : Bool := true

/-- The table of R53 with the legal formats of R58: the row of (`GRP`, `FN`), `none` where R53 has none. -/
def lookup : Nat → Nat → Option OpRow
  | 0, 0 => some (.plain fun t => t.pick .zeroS .zeroU)
  | 0, 1 => some (.plain fun t => t.pick .canonS .canonU)
  | 0, 2 => some (.plain fun t => t.pick .valueS .valueU)
  | 0, 3 => some (.plain fun t => t.pick .rawS .rawU)
  | 0, 4 => some (.plain fun t => t.pick .bitcastS .bitcastU)
  | 0, 5 => some (.plain fun t => t.pick .magS .magU)
  | 0, 6 => some (.plain fun t => t.pick .signumS .signumU)
  | 0, 7 => some (.plain fun t => t.pick .wordsS .wordsU)
  | 1, 0 => some (.plain fun t => t.pick .addroS .addroU)
  | 1, 1 => some (.plain fun t => t.pick .subroS .subroU)
  | 1, 2 => some (.plain fun t => t.pick .mulroS .mulroU)
  | 1, 3 => some (.plain fun t => t.pick .divroS .divroU)
  | 1, 4 => some (.plain fun t => t.pick .remroS .remroU)
  | 2, 0 => some (.plain fun t => t.pick .addS .addU)
  | 2, 1 => some (.plain fun t => t.pick .subS .subU)
  | 2, 2 => some (.plain fun t => t.pick .mulS .mulU)
  | 2, 3 => some (.plain fun t => t.pick .divS .divU)
  | 2, 4 => some (.plain fun t => t.pick .remS .remU)
  | 2, 5 => some (.plain fun t => t.pick .divremS .divremU)
  | 2, 6 => some (.plain fun t => t.pick .divfwS .divfwU)
  | 2, 7 => some (.plain fun t => t.pick .ismultS .ismultU)
  | 3, 0 => some (.plain fun t => t.pick .andS .andU)
  | 3, 1 => some (.plain fun t => t.pick .orS .orU)
  | 3, 2 => some (.plain fun t => t.pick .xorS .xorU)
  | 3, 3 => some (.plain fun t => t.pick .notS .notU)
  | 3, 4 => some (.plain fun t => t.pick .shlS .shlU)
  | 3, 5 => some (.plain fun t => t.pick .shrS .shrU)
  | 3, 6 => some (.plain fun t => t.pick .bswapS .bswapU)
  | 3, 7 => some (.plain fun t => t.pick .popcntS .popcntU)
  | 3, 8 => some (.plain fun t => t.pick .clzS .clzU)
  | 3, 9 => some (.plain fun t => t.pick .ctzS .ctzU)
  | 4, 0 => some (.foreign Fmt.isInt fun t f => t.pick (.cviExactS f) (.cviExactU f))
  | 4, 1 => some (.foreign anyFmt fun t f => t.pick (.cviExactlyS f) (.cviExactlyU f))
  | 4, 2 => some (.foreign Fmt.isInt fun t f => t.pick (.cviTruncS f) (.cviTruncU f))
  | 4, 3 => some (.foreign Fmt.isInt fun t f => t.pick (.cviClampS f) (.cviClampU f))
  | 4, 4 => some (.foreign Fmt.isFloat fun t f => t.pick (.cviRoundS f) (.cviRoundU f))
  | 5, 0 => some (.foreign Fmt.isNativeInt fun t f => t.pick (.cvoExactS f) (.cvoExactU f))
  | 5, 1 => some (.foreign Fmt.isNativeInt fun t f => t.pick (.cvoExactlyS f) (.cvoExactlyU f))
  | 5, 2 => some (.foreign Fmt.isNativeInt fun t f => t.pick (.cvoTruncS f) (.cvoTruncU f))
  | 5, 3 => some (.foreign Fmt.isNativeInt fun t f => t.pick (.cvoClampS f) (.cvoClampU f))
  | 5, 4 => some (.foreign Fmt.isFloat fun t f => t.pick (.cvoFloatS f) (.cvoFloatU f))
  | 6, 0 => some (.foreign anyFmt fun t f => t.pick (.cmpeqS f) (.cmpeqU f))
  | 6, 1 => some (.foreign anyFmt fun t f => t.pick (.cmpneS f) (.cmpneU f))
  | 6, 2 => some (.foreign anyFmt fun t f => t.pick (.cmpltS f) (.cmpltU f))
  | 6, 3 => some (.foreign anyFmt fun t f => t.pick (.cmpleS f) (.cmpleU f))
  | 6, 4 => some (.foreign anyFmt fun t f => t.pick (.cmpgtS f) (.cmpgtU f))
  | 6, 5 => some (.foreign anyFmt fun t f => t.pick (.cmpgeS f) (.cmpgeU f))
  | _, _ => none

/-- The decoding algorithm of R62, naming why a word is reserved: `RSV` first, then the table, then `FMT`. -/
def decodeNamed (w : CmdWord) : Except Reserved Instr :=
  if rsvField w ≠ 0 then .error .rsvField
  else
    match lookup (grpField w) (fnField w) with
    | none => .error (if grpField w < 7 then .function else .group)
    | some (.plain make) => if fmtField w = 0 then .ok (make (tyField w)) else .error .format
    | some (.foreign legal make) =>
      match fmtOfCode (fmtField w) with
      | none => .error .format
      | some f => if legal f then .ok (make (tyField w) f) else .error .format

/-- R61: `none` exactly on the reserved words. -/
def decode (w : CmdWord) : Option Instr :=
  match decodeNamed w with
  | .ok i => some i
  | .error _ => none

/-- The `FMT` code of a format (R57). -/
def fmtCode : Fmt → Nat
  | .i8 => 0x0
  | .i16 => 0x1
  | .i32 => 0x2
  | .i64 => 0x3
  | .u8 => 0x4
  | .u16 => 0x5
  | .u32 => 0x6
  | .u64 => 0x7
  | .f32 => 0x8
  | .f64 => 0x9
  | .s24 => 0xA
  | .u24 => 0xB

/-- The type bit of a type (R54). -/
def tyCode : Ty → Nat
  | .s24 => 0
  | .u24 => 1

/-- R51: the value of a command word is `GRP * 4096 + FN * 256 + T * 128 + FMT`. -/
def cmdWord (grp fn : Nat) (t : Ty) (fmt : Nat) : CmdWord :=
  BitVec.ofNat 16 (grp * 4096 + fn * 256 + tyCode t * 128 + fmt)

/-- The command word of a command, from the tables of R52, R53 and R57. -/
def encode : Instr → CmdWord
  | .zeroS => cmdWord 0 0 .s24 0
  | .zeroU => cmdWord 0 0 .u24 0
  | .canonS => cmdWord 0 1 .s24 0
  | .canonU => cmdWord 0 1 .u24 0
  | .valueS => cmdWord 0 2 .s24 0
  | .valueU => cmdWord 0 2 .u24 0
  | .rawS => cmdWord 0 3 .s24 0
  | .rawU => cmdWord 0 3 .u24 0
  | .bitcastS => cmdWord 0 4 .s24 0
  | .bitcastU => cmdWord 0 4 .u24 0
  | .magS => cmdWord 0 5 .s24 0
  | .magU => cmdWord 0 5 .u24 0
  | .signumS => cmdWord 0 6 .s24 0
  | .signumU => cmdWord 0 6 .u24 0
  | .wordsS => cmdWord 0 7 .s24 0
  | .wordsU => cmdWord 0 7 .u24 0
  | .addroS => cmdWord 1 0 .s24 0
  | .addroU => cmdWord 1 0 .u24 0
  | .subroS => cmdWord 1 1 .s24 0
  | .subroU => cmdWord 1 1 .u24 0
  | .mulroS => cmdWord 1 2 .s24 0
  | .mulroU => cmdWord 1 2 .u24 0
  | .divroS => cmdWord 1 3 .s24 0
  | .divroU => cmdWord 1 3 .u24 0
  | .remroS => cmdWord 1 4 .s24 0
  | .remroU => cmdWord 1 4 .u24 0
  | .addS => cmdWord 2 0 .s24 0
  | .addU => cmdWord 2 0 .u24 0
  | .subS => cmdWord 2 1 .s24 0
  | .subU => cmdWord 2 1 .u24 0
  | .mulS => cmdWord 2 2 .s24 0
  | .mulU => cmdWord 2 2 .u24 0
  | .divS => cmdWord 2 3 .s24 0
  | .divU => cmdWord 2 3 .u24 0
  | .remS => cmdWord 2 4 .s24 0
  | .remU => cmdWord 2 4 .u24 0
  | .divremS => cmdWord 2 5 .s24 0
  | .divremU => cmdWord 2 5 .u24 0
  | .divfwS => cmdWord 2 6 .s24 0
  | .divfwU => cmdWord 2 6 .u24 0
  | .ismultS => cmdWord 2 7 .s24 0
  | .ismultU => cmdWord 2 7 .u24 0
  | .andS => cmdWord 3 0 .s24 0
  | .andU => cmdWord 3 0 .u24 0
  | .orS => cmdWord 3 1 .s24 0
  | .orU => cmdWord 3 1 .u24 0
  | .xorS => cmdWord 3 2 .s24 0
  | .xorU => cmdWord 3 2 .u24 0
  | .notS => cmdWord 3 3 .s24 0
  | .notU => cmdWord 3 3 .u24 0
  | .shlS => cmdWord 3 4 .s24 0
  | .shlU => cmdWord 3 4 .u24 0
  | .shrS => cmdWord 3 5 .s24 0
  | .shrU => cmdWord 3 5 .u24 0
  | .bswapS => cmdWord 3 6 .s24 0
  | .bswapU => cmdWord 3 6 .u24 0
  | .popcntS => cmdWord 3 7 .s24 0
  | .popcntU => cmdWord 3 7 .u24 0
  | .clzS => cmdWord 3 8 .s24 0
  | .clzU => cmdWord 3 8 .u24 0
  | .ctzS => cmdWord 3 9 .s24 0
  | .ctzU => cmdWord 3 9 .u24 0
  | .cviExactS f => cmdWord 4 0 .s24 (fmtCode f)
  | .cviExactU f => cmdWord 4 0 .u24 (fmtCode f)
  | .cviExactlyS f => cmdWord 4 1 .s24 (fmtCode f)
  | .cviExactlyU f => cmdWord 4 1 .u24 (fmtCode f)
  | .cviTruncS f => cmdWord 4 2 .s24 (fmtCode f)
  | .cviTruncU f => cmdWord 4 2 .u24 (fmtCode f)
  | .cviClampS f => cmdWord 4 3 .s24 (fmtCode f)
  | .cviClampU f => cmdWord 4 3 .u24 (fmtCode f)
  | .cviRoundS f => cmdWord 4 4 .s24 (fmtCode f)
  | .cviRoundU f => cmdWord 4 4 .u24 (fmtCode f)
  | .cvoExactS f => cmdWord 5 0 .s24 (fmtCode f)
  | .cvoExactU f => cmdWord 5 0 .u24 (fmtCode f)
  | .cvoExactlyS f => cmdWord 5 1 .s24 (fmtCode f)
  | .cvoExactlyU f => cmdWord 5 1 .u24 (fmtCode f)
  | .cvoTruncS f => cmdWord 5 2 .s24 (fmtCode f)
  | .cvoTruncU f => cmdWord 5 2 .u24 (fmtCode f)
  | .cvoClampS f => cmdWord 5 3 .s24 (fmtCode f)
  | .cvoClampU f => cmdWord 5 3 .u24 (fmtCode f)
  | .cvoFloatS f => cmdWord 5 4 .s24 (fmtCode f)
  | .cvoFloatU f => cmdWord 5 4 .u24 (fmtCode f)
  | .cmpeqS f => cmdWord 6 0 .s24 (fmtCode f)
  | .cmpeqU f => cmdWord 6 0 .u24 (fmtCode f)
  | .cmpneS f => cmdWord 6 1 .s24 (fmtCode f)
  | .cmpneU f => cmdWord 6 1 .u24 (fmtCode f)
  | .cmpltS f => cmdWord 6 2 .s24 (fmtCode f)
  | .cmpltU f => cmdWord 6 2 .u24 (fmtCode f)
  | .cmpleS f => cmdWord 6 3 .s24 (fmtCode f)
  | .cmpleU f => cmdWord 6 3 .u24 (fmtCode f)
  | .cmpgtS f => cmdWord 6 4 .s24 (fmtCode f)
  | .cmpgtU f => cmdWord 6 4 .u24 (fmtCode f)
  | .cmpgeS f => cmdWord 6 5 .s24 (fmtCode f)
  | .cmpgeU f => cmdWord 6 5 .u24 (fmtCode f)

/-- The command the decoder reads from a table word: a command is one 16-bit word (R50), so bits at or above
`nbits` are 0 and a number that does not fit the command word is no command. -/
def decodeTableWord (nbits w : Nat) : Option Instr :=
  if w % 2 ^ nbits < 2 ^ 16 then decode (BitVec.ofNat 16 (w % 2 ^ nbits)) else none

end Sys2Proof
end

