-- ==== Sys2Proof/Machine/State.lean ====
section
/-! DEFINITION. The state of the CTI24 ALU as plain data (spec/10_state.md R20 to R30): the fault record, the ports
of the transaction, the host's transactions to come and the three parameters of R8; what a command's rule answers;
the stop reasons; the reset state. -/

namespace Sys2Proof.Machine

/-- The five causes of a fatal (R221). `FCAUSE` 0 is "no cause" and 6 to 15 are never recorded. -/
inductive Cause where
  /-- out-of-range literal or exact construction (R222) -/
  | range
  /-- out-of-range shift amount (R223) -/
  | shift
  /-- unchecked-operator overflow, zero divisor included (R224) -/
  | overflow
  /-- full-width division result out of range or zero divisor (R225) -/
  | fwdiv
  /-- reserved command word (R225) -/
  | illegal
deriving DecidableEq, Repr

/-- The fault record, the block's only architectural state (R27, R29): `FATAL`, `FCAUSE` (`none` is code 0),
`FCMD`, `FOPA`, `FOPB`, `FOPC`, `FOPX`. -/
structure FaultRecord where
  fatal : Bool
  fcause : Option Cause
  fcmd : CmdWord
  fopa : HostWord
  fopb : HostWord
  fopc : HostWord
  fopx : Wide
deriving DecidableEq, Repr

/-- The fault record after reset: every field zero (R30). -/
def FaultRecord.clear : FaultRecord := ⟨false, none, 0#16, 0#32, 0#32, 0#32, 0#64⟩

/-- The input ports of one transaction (R23): `RST`, `REQ`, `CMD`, `A`, `B`, `C`, `X`. -/
structure Inputs where
  rst : Bool
  req : Bool
  cmd : CmdWord
  a : HostWord
  b : HostWord
  c : HostWord
  x : Wide
deriving DecidableEq, Repr

/-- An idle transaction (R23: `REQ` 0) with every other port driven with zero. -/
def Inputs.idle : Inputs := ⟨false, false, 0#16, 0#32, 0#32, 0#32, 0#64⟩

/-- The result outputs of one transaction (R24, R26): `Y`, `Y2`, `OVF`, `VALID`. -/
structure Outputs where
  y : Wide
  y2 : HostWord
  ovf : Bool
  valid : Bool
deriving DecidableEq, Repr

/-- The result outputs of a transaction that has no result: all zero (R29, R226). -/
def Outputs.zero : Outputs := ⟨0#64, 0#32, false, false⟩

/-- What a command's rule does (R15): it drives the outputs, or it raises a fatal. -/
inductive Result where
  | done (o : Outputs)
  | fatal (c : Cause)
deriving DecidableEq, Repr

/-- The machine's state between two transactions. `record` is the whole architectural state (R27). `inp` is what the
input ports present to the next step, `pending` the transactions the host presents after that, in issue order (R21),
`out` the result outputs as the last transaction drove them (R24), `params` the parameters of R8 (log 1 to 4). -/
structure State where
  record : FaultRecord
  inp : Inputs
  pending : List Inputs
  out : Outputs
  params : Params
deriving DecidableEq, Repr

/-- No step of this machine faults: the spec's fatal is a next state, halted, with the fault record written (R226,
R28), so the type has no constructor. Safe: nothing is stopped that the spec lets run. -/
inductive Fault where
deriving DecidableEq, Repr

/-- Why a step has no meaning. -/
inductive Refusal where
  /-- An arm of `exec` whose instruction has no meaning yet. No arm raises it: every row has its meaning. Safe. -/
  | notModelled (mnemonic : String)
deriving DecidableEq, Repr

/-- The block right after reset (R30): the record and the outputs all zero; the ports idle with nothing presented
(log 2); the parameters at their defaults (R8, log 4). -/
def State.reset : State := ⟨FaultRecord.clear, Inputs.idle, [], Outputs.zero, Params.default⟩

end Sys2Proof.Machine
end

