-- ==== Sys2Proof/Machine/Operands.lean ====
section
/-! DEFINITION. How operands are read and results are written as bits: the representation primitives
(spec/00_scope.md R10 to R14), the operand ports (spec/10_state.md R25, spec/30_encoding.md R57, R59), and the
floating formats (spec/43_conversion.md R171, R172, R179). -/

namespace Sys2Proof.Machine

/-- R11: `canon(w) = w & MASK`, the stored word of a host word. -/
def canon (w : HostWord) : HostWord := w &&& mask

/-- R11, R83: `(uint(s) ^ SIGN_BIT) - SIGN_BIT`, the sign-extended value of a stored word. -/
def sx24 (s : HostWord) : Int := ((s ^^^ signBit).toNat : Int) - (signBit.toNat : Int)

/-- R11: the logical value of a stored word under a type. -/
def lv : Ty → HostWord → Int
  | .s24, s => sx24 s
  | .u24, s => (s.toNat : Int)

/-- R6, R11: `MIN(T)`. -/
def minOf : Ty → Int
  | .s24 => -8388608
  | .u24 => 0

/-- R6, R11: `MAX(T)`. -/
def maxOf : Ty → Int
  | .s24 => 8388607
  | .u24 => 16777215

/-- R11: `MIN(T) <= i <= MAX(T)`. -/
abbrev InRange (t : Ty) (i : Int) : Prop := minOf t ≤ i ∧ i ≤ maxOf t

/-- R11: `wrap(T, i)`, the low 24 bits of an integer as a stored word; the same bits for both types. -/
def wrap (_ : Ty) (i : Int) : HostWord := (BitVec.ofInt 24 i).setWidth 32

/-- R11: `enc(T, i)`, the stored word of an integer; the spec uses it in range only, where it is `wrap`. -/
def enc (t : Ty) (i : Int) : HostWord := wrap t i

/-- R12: the integer quotient rounded toward zero. -/
def tdiv (a b : Int) : Int := a.sign * b.sign * ((a.natAbs / b.natAbs : Nat) : Int)

/-- R12: the remainder that goes with `tdiv`. -/
def trem (a b : Int) : Int := a - b * tdiv a b

/-- R13: the zero bits above the most significant one bit of a host word, 32 for zero. -/
def clz32 (w : HostWord) : Nat := ((List.range 32).takeWhile fun i => !w.getLsbD (31 - i)).length

/-- R13: the zero bits below the least significant one bit of a host word, 32 for zero. -/
def ctz32 (w : HostWord) : Nat := ((List.range 32).takeWhile fun i => !w.getLsbD i).length

/-- R13, R152: the one bits among the 24 stored bits. -/
def popcount24 (w : HostWord) : Nat := ((List.range 24).filter fun i => w.getLsbD i).length

/-- R25: the stored word a command takes from port `A`. -/
def opA (s : State) : HostWord := canon s.inp.a

/-- R25: the stored word a command takes from port `B`. -/
def opB (s : State) : HostWord := canon s.inp.b

/-- R25: the stored word a command takes from port `C`. -/
def opC (s : State) : HostWord := canon s.inp.c

/-- The foreign operand as port `X` carries it (R23). -/
def opX (s : State) : Wide := s.inp.x

/-- R145: the shift count, `sint(X[31:0])`. -/
def shiftCount (x : Wide) : Int := (x.setWidth 32).toInt

/-- R57: the width in bits of a foreign format. -/
def fmtWidth : Fmt → Nat
  | .i8 | .u8 => 8
  | .i16 | .u16 => 16
  | .s24 | .u24 => 24
  | .i32 | .u32 | .f32 => 32
  | .i64 | .u64 | .f64 => 64

/-- R57: whether an integer format is read as two's complement. -/
def fmtSigned : Fmt → Bool
  | .i8 | .i16 | .i32 | .i64 | .s24 => true
  | .u8 | .u16 | .u32 | .u64 | .u24 | .f32 | .f64 => false

/-- R14, R173: `fint(F, X)`, for an integer format; the bits of `X` above the width are ignored. -/
def fint (f : Fmt) (x : Wide) : Int :=
  if fmtSigned f then (x.setWidth (fmtWidth f)).toInt else ((x.setWidth (fmtWidth f)).toNat : Int)

/-- R14: `FMIN(F)` of an integer format. -/
def fmin (f : Fmt) : Int := if fmtSigned f then -(2 ^ (fmtWidth f - 1)) else 0

/-- R14: `FMAX(F)` of an integer format. -/
def fmax (f : Fmt) : Int := if fmtSigned f then 2 ^ (fmtWidth f - 1) - 1 else 2 ^ fmtWidth f - 1

/-- R14: `fbits(F, i)`, the image of an integer in a format, zero above the format's width. -/
def fbits (f : Fmt) (i : Int) : Wide := (BitVec.ofInt (fmtWidth f) i).setWidth 64

/-- The value of a foreign operand (R14, R171). `finite num scale` is the exact rational `num / 2^scale`. -/
inductive Number where
  | finite (num : Int) (scale : Nat)
  | posInf
  | negInf
  | nan
deriving DecidableEq, Repr

/-- R171 for an IEEE 754 binary format with `ew` exponent bits and `fw` fraction bits. With `off = bias + fw`, a
normal number is `(-1)^s * (2^fw + m) * 2^(e - off)` and a subnormal or zero is `(-1)^s * m * 2^(1 - off)`. -/
def ieeeDecode (ew fw : Nat) (x : Wide) : Number :=
  let neg := x.getLsbD (ew + fw)
  let e := x.toNat / 2 ^ fw % 2 ^ ew
  let m := x.toNat % 2 ^ fw
  let off := 2 ^ (ew - 1) - 1 + fw
  if e = 2 ^ ew - 1 then
    if m ≠ 0 then .nan else if neg then .negInf else .posInf
  else
    let sig := if e = 0 then m else 2 ^ fw + m
    let exp := if e = 0 then 1 else e
    let mag : Int := ((sig * 2 ^ (exp - off) : Nat) : Int)
    .finite (if neg then -mag else mag) (off - exp)

/-- R171: `fdec(F, X)` for the two floating formats. -/
def fdec (f : Fmt) (x : Wide) : Number := if f = .f64 then ieeeDecode 11 52 x else ieeeDecode 8 23 x

/-- The value of port `X` in any foreign format: an integer format is an exact integer (R173), a floating format
is decoded (R171). -/
def reading (f : Fmt) (x : Wide) : Number := if f.isInt then .finite (fint f x) 0 else fdec f x

/-- R172 for a format with `ew` exponent bits and `fw` fraction bits, for integers that it holds exactly. -/
def ieeeEncode (ew fw : Nat) (i : Int) : Wide :=
  if i = 0 then 0#64
  else
    let g := i.natAbs
    let k := Nat.log2 g
    let sgn := if i < 0 then 1 else 0
    BitVec.ofNat 64 (sgn * 2 ^ (ew + fw) + (k + (2 ^ (ew - 1) - 1)) * 2 ^ fw + (g - 2 ^ k) * 2 ^ (fw - k))

/-- R172: `ffloat(F, i)` for the two floating formats. -/
def ffloat (f : Fmt) (i : Int) : Wide := if f = .f64 then ieeeEncode 11 52 i else ieeeEncode 8 23 i

/-- R179: the rational `num / 2^scale` rounded to the nearest integer, an exact tie by the parameter. -/
def rnd : F2iRound → Int → Nat → Int
  | .tiesAway, num, scale => num.sign * (((2 * num.natAbs + 2 ^ scale) / (2 * 2 ^ scale) : Nat) : Int)
  | .tiesEven, num, scale =>
    let fl := num / 2 ^ scale
    let twice := 2 * (num % 2 ^ scale)
    if twice < 2 ^ scale then fl
    else if 2 ^ scale < twice then fl + 1
    else if fl % 2 = 0 then fl else fl + 1

/-- How two numbers compare (R201, R202). -/
inductive Rel where
  | lt
  | eq
  | gt
  | unordered
deriving DecidableEq, Repr

/-- R201, R202: the integer `l` against a foreign number, by mathematical value. -/
def relate (l : Int) : Number → Rel
  | .finite num scale =>
    if l * 2 ^ scale < num then .lt else if l * 2 ^ scale = num then .eq else .gt
  | .posInf => .lt
  | .negInf => .gt
  | .nan => .unordered

/-- Which ports a command reads (R59): the value ports, and how many low bits of `X`. -/
structure ReadSet where
  a : Bool
  b : Bool
  c : Bool
  xBits : Nat
deriving DecidableEq, Repr

/-- The "reads" column of R59, with the bits of `X` that R57 (and R145 for a shift count) uses. -/
def portsRead : Instr → ReadSet
  | .zeroS | .zeroU => ⟨false, false, false, 0⟩
  | .canonS | .canonU | .valueS | .valueU | .rawS | .rawU | .bitcastS | .bitcastU | .magS | .magU
  | .signumS | .signumU | .wordsS | .wordsU | .notS | .notU | .bswapS | .bswapU | .popcntS | .popcntU
  | .clzS | .clzU | .ctzS | .ctzU => ⟨true, false, false, 0⟩
  | .addroS | .addroU | .subroS | .subroU | .mulroS | .mulroU | .divroS | .divroU | .remroS | .remroU
  | .addS | .addU | .subS | .subU | .mulS | .mulU | .divS | .divU | .remS | .remU | .divremS | .divremU
  | .ismultS | .ismultU | .andS | .andU | .orS | .orU | .xorS | .xorU => ⟨true, true, false, 0⟩
  | .divfwS | .divfwU => ⟨true, true, true, 0⟩
  | .shlS | .shlU | .shrS | .shrU => ⟨true, false, false, 32⟩
  | .cviExactS f | .cviExactU f | .cviExactlyS f | .cviExactlyU f | .cviTruncS f | .cviTruncU f
  | .cviClampS f | .cviClampU f | .cviRoundS f | .cviRoundU f => ⟨false, false, false, fmtWidth f⟩
  | .cvoExactS _ | .cvoExactU _ | .cvoExactlyS _ | .cvoExactlyU _ | .cvoTruncS _ | .cvoTruncU _
  | .cvoClampS _ | .cvoClampU _ | .cvoFloatS _ | .cvoFloatU _ => ⟨true, false, false, 0⟩
  | .cmpeqS f | .cmpeqU f | .cmpneS f | .cmpneU f | .cmpltS f | .cmpltU f | .cmpleS f | .cmpleU f
  | .cmpgtS f | .cmpgtU f | .cmpgeS f | .cmpgeU f => ⟨true, false, false, fmtWidth f⟩

end Sys2Proof.Machine
end

