-- ==== Sys2Proof/Machine/Ops.lean ====
section
/-! DEFINITION. The named operations every command and every transaction is made of: driving the outputs
(spec/00_scope.md R15), entering a fatal (spec/60_exceptions.md R226), reset (spec/10_state.md R30), the checks of a
transaction before a command is decoded (R228), and what the host presents next. -/

namespace Sys2Proof.Machine

/-- A result that is a number on `Y` and nothing else (R15: `VALID` 1, the rest zero). -/
def give (y : Wide) : Result := .done ⟨y, 0#32, false, true⟩

/-- A result that is a 24-bit value: its stored word, zero-extended to `Y` (R15, R25). -/
def giveValue (w : HostWord) : Result := give (w.setWidth 64)

/-- A plain unsigned number on `Y` (R59, R151). -/
def giveCount (n : Nat) : Result := give (BitVec.ofNat 64 n)

/-- A bool in `Y[0]` (R59). -/
def giveBool (p : Bool) : Result := give (if p then 1#64 else 0#64)

/-- A value with the overflow flag of a checked command (R26, R100: it always completes with `VALID` 1). -/
def giveFlagged (w : HostWord) (ovf : Bool) : Result := .done ⟨w.setWidth 64, 0#32, ovf, true⟩

/-- A quotient on `Y` and a remainder on `Y2` (R24, R120 to R122). -/
def givePair (q r : HostWord) : Result := .done ⟨q.setWidth 64, r, false, true⟩

/-- The empty result of a fallible conversion: `Y` 0 and `VALID` 0 without a fatal (R26, R175, R182). -/
def giveNone : Result := .done ⟨0#64, 0#32, false, false⟩

/-- A command's outputs on the output ports; nothing else changes (R29). -/
def deliver (o : Outputs) (s : State) : State := { s with out := o }

/-- Fatal entry (R226): the outputs are zero and the record takes the cause, the command word and the four operand
ports as presented. There is no return from it (R227): `resetBlock` is the only way out. -/
def raiseFatal (c : Cause) (s : State) : State :=
  { s with
    out := Outputs.zero
    record := ⟨true, some c, s.inp.cmd, s.inp.a, s.inp.b, s.inp.c, s.inp.x⟩ }

/-- The end of a command's rule: deliver its outputs or enter the fatal it raises (R15, R29). -/
def finish (s : State) : Result → Host.Outcome State Fault Refusal
  | .done o => .next (deliver o s)
  | .fatal c => .next (raiseFatal c s)

/-- A transaction without a result: all-zero outputs, the record unchanged (R29). -/
def quiet (s : State) : State := { s with out := Outputs.zero }

/-- A transaction with `RST` 1: the record and the outputs all zero (R30, R250). -/
def resetBlock (s : State) : State := { s with record := FaultRecord.clear, out := Outputs.zero }

/-- Checks 1 to 3 of R228, in its order: `RST`, then `REQ` 0, then halted. Answers the state after a transaction
that executes no command, or `none` when the command is to be decoded. -/
def noCommand (s : State) : Option State :=
  if s.inp.rst then some (resetBlock s)
  else if !s.inp.req then some (quiet s)
  else if s.record.fatal then some (quiet s)
  else none

/-- The command word the transaction presents (R21, R50: there is no fetch, `CMD` is a port). -/
def fetch (s : State) : CmdWord := s.inp.cmd

/-- After a transaction the host presents its next one, and idles when it has none (R21, R23; log 2). -/
def presentNext (s : State) : State :=
  match s.pending with
  | [] => { s with inp := Inputs.idle }
  | p :: ps => { s with inp := p, pending := ps }

/-- What a step adds around a command: the host presents its next transaction. -/
def thenPresent : Host.Outcome State Fault Refusal → Host.Outcome State Fault Refusal
  | .next s => .next (presentNext s)
  | .fault r => .fault r
  | .refused r => .refused r

/-- The ports with a command requested: `RST` 0, `REQ` 1 and the word on `CMD`, the operand ports as they stand. -/
def presentWord (w : Nat) (s : State) : State :=
  { s with inp := { s.inp with rst := false, req := true, cmd := BitVec.ofNat 16 w } }

/-- The code `FCAUSE` shows for a cause (R221). -/
def causeCode : Cause → BitVec 4
  | .range => 1#4
  | .shift => 2#4
  | .overflow => 3#4
  | .fwdiv => 4#4
  | .illegal => 5#4

/-- The output port `FCAUSE[3:0]` (R24, R27): 0 while nothing is recorded. -/
def fcausePort (s : State) : BitVec 4 :=
  match s.record.fcause with
  | none => 0#4
  | some c => causeCode c

end Sys2Proof.Machine
end

