-- ==== Sys2Proof/Machine/Bits.lean ====
section
/-! DEFINITION. The commands of group `BIT`: bitwise operations, shifts, byte swap and bit counts (spec/42_bits_shifts.md
R140 to R154). -/

namespace Sys2Proof.Machine

/-- R144: the complement masked back to 24 bits. -/
def notRule (a : HostWord) : Result := giveValue (~~~a &&& mask)

/-- R145: a count outside `[0, 24)` is `Fatal(SHIFT)`; otherwise the shift by the count. -/
def withShiftCount (x : Wide) (shifted : Nat → HostWord) : Result :=
  if shiftCount x < 0 ∨ 24 ≤ shiftCount x then .fatal .shift else giveValue (shifted (shiftCount x).toNat)

/-- R147: the shift in 32 bits, masked. -/
def shiftLeft24 (a : HostWord) (n : Nat) : HostWord := (a <<< n) &&& mask

/-- R148: the logical shift of the stored word; for `S24` under `SHR_S_FILL = sign` the arithmetic shift (floor). -/
def shiftRight24 (p : ShrSFill) (t : Ty) (a : HostWord) (n : Nat) : HostWord :=
  if t = .s24 ∧ p = .sign then wrap .s24 (lv .s24 a / 2 ^ n) else a >>> n

/-- R150: bytes 0 and 2 of the stored pattern change places (R42 numbers them). -/
def swapBytes (a : HostWord) : HostWord :=
  (a.extractLsb' 0 8 ++ a.extractLsb' 8 8 ++ a.extractLsb' 16 8).setWidth 32

/-- R153: the leading zeros within 24 bits; for `S24` a set bit 23 answers 0 first. -/
def clzRule (t : Ty) (a : HostWord) : Result :=
  giveCount (if t = .s24 ∧ a.getLsbD 23 = true then 0 else clz32 a - lzBias)

/-- R154: the trailing zeros within 24 bits, 24 for zero. -/
def ctzRule (a : HostWord) : Result := giveCount (if a = 0#32 then 24 else ctz32 a)

/-- `AND.S` (R141). -/
def execAndS (s : State) : Host.Outcome State Fault Refusal :=
  finish s (giveValue (opA s &&& opB s))

/-- `AND.U` (R141). -/
def execAndU (s : State) : Host.Outcome State Fault Refusal :=
  finish s (giveValue (opA s &&& opB s))

/-- `OR.S` (R142). -/
def execOrS (s : State) : Host.Outcome State Fault Refusal :=
  finish s (giveValue (opA s ||| opB s))

/-- `OR.U` (R142). -/
def execOrU (s : State) : Host.Outcome State Fault Refusal :=
  finish s (giveValue (opA s ||| opB s))

/-- `XOR.S` (R143). -/
def execXorS (s : State) : Host.Outcome State Fault Refusal :=
  finish s (giveValue (opA s ^^^ opB s))

/-- `XOR.U` (R143). -/
def execXorU (s : State) : Host.Outcome State Fault Refusal :=
  finish s (giveValue (opA s ^^^ opB s))

/-- `NOT.S` (R144). -/
def execNotS (s : State) : Host.Outcome State Fault Refusal :=
  finish s (notRule (opA s))

/-- `NOT.U` (R144). -/
def execNotU (s : State) : Host.Outcome State Fault Refusal :=
  finish s (notRule (opA s))

/-- `SHL.S` (R147). -/
def execShlS (s : State) : Host.Outcome State Fault Refusal :=
  finish s (withShiftCount (opX s) (shiftLeft24 (opA s)))

/-- `SHL.U` (R147). -/
def execShlU (s : State) : Host.Outcome State Fault Refusal :=
  finish s (withShiftCount (opX s) (shiftLeft24 (opA s)))

/-- `SHR.S` (R148). -/
def execShrS (s : State) : Host.Outcome State Fault Refusal :=
  finish s (withShiftCount (opX s) (shiftRight24 s.params.shrSFill .s24 (opA s)))

/-- `SHR.U` (R148). -/
def execShrU (s : State) : Host.Outcome State Fault Refusal :=
  finish s (withShiftCount (opX s) (shiftRight24 s.params.shrSFill .u24 (opA s)))

/-- `BSWAP.S` (R150). -/
def execBswapS (s : State) : Host.Outcome State Fault Refusal :=
  finish s (giveValue (swapBytes (opA s)))

/-- `BSWAP.U` (R150). -/
def execBswapU (s : State) : Host.Outcome State Fault Refusal :=
  finish s (giveValue (swapBytes (opA s)))

/-- `POPCNT.S` (R152). -/
def execPopcntS (s : State) : Host.Outcome State Fault Refusal :=
  finish s (giveCount (popcount24 (opA s)))

/-- `POPCNT.U` (R152). -/
def execPopcntU (s : State) : Host.Outcome State Fault Refusal :=
  finish s (giveCount (popcount24 (opA s)))

/-- `CLZ.S` (R153). -/
def execClzS (s : State) : Host.Outcome State Fault Refusal :=
  finish s (clzRule .s24 (opA s))

/-- `CLZ.U` (R153). -/
def execClzU (s : State) : Host.Outcome State Fault Refusal :=
  finish s (clzRule .u24 (opA s))

/-- `CTZ.S` (R154). -/
def execCtzS (s : State) : Host.Outcome State Fault Refusal :=
  finish s (ctzRule (opA s))

/-- `CTZ.U` (R154). -/
def execCtzU (s : State) : Host.Outcome State Fault Refusal :=
  finish s (ctzRule (opA s))

end Sys2Proof.Machine
end

