-- ==== Sys2Proof/Machine/Flags.lean ====
section
/-! DEFINITION. The overflow flag of every checked arithmetic command, test by test as spec/41_arithmetic.md R104 to
R113 gives it. -/

namespace Sys2Proof.Machine

/-- `neg(v)`: zero counts as not negative (spec/41_arithmetic.md, opening). -/
def neg (v : Int) : Bool := decide (v < 0)

/-- `OVF` of `ADDRO`: R104 (signed: like signs, and the wrapped sum's sign differs), R105 (unsigned). -/
def addOverflow : Ty → Int → Int → Bool
  | .s24, va, vb => neg va == neg vb && neg (sx24 (wrap .s24 (va + vb))) != neg va
  | .u24, va, vb => decide (maxOf .u24 - vb < va)

/-- `OVF` of `SUBRO`: R106 (signed: unlike signs, and the wrapped difference's sign differs from the left
operand's), R107 (unsigned). -/
def subOverflow : Ty → Int → Int → Bool
  | .s24, va, vb => neg va != neg vb && neg (sx24 (wrap .s24 (va - vb))) != neg va
  | .u24, va, vb => decide (va < vb)

/-- `OVF` of `MULRO`: R108 (signed: the four division tests by sign case), R109 (unsigned: the exact product). -/
def mulOverflow : Ty → Int → Int → Bool
  | .s24, va, vb =>
    if va = 0 ∨ vb = 0 then false
    else if 0 < va ∧ 0 < vb then decide (tdiv (maxOf .s24) vb < va)
    else if va < 0 ∧ vb < 0 then decide (va < tdiv (maxOf .s24) vb)
    else if 0 < va ∧ vb < 0 then decide (tdiv (minOf .s24) vb < va)
    else decide (va < tdiv (minOf .s24) vb)
  | .u24, va, vb => decide (maxOf .u24 < va * vb)

/-- `OVF` of `DIVRO`: R110 (zero divisor, or `MIN_S / -1`), R111 (zero divisor). -/
def divOverflow : Ty → Int → Int → Bool
  | .s24, va, vb => decide (vb = 0 ∨ (va = minOf .s24 ∧ vb = -1))
  | .u24, _, vb => decide (vb = 0)

/-- `OVF` of `REMRO`: R112 (zero divisor, or `MIN_S % -1` though its remainder is in range), R113 (zero divisor). -/
def remOverflow : Ty → Int → Int → Bool
  | .s24, va, vb => decide (vb = 0 ∨ (va = minOf .s24 ∧ vb = -1))
  | .u24, _, vb => decide (vb = 0)

end Sys2Proof.Machine
end

