-- ==== Sys2Proof/Machine/Checked.lean ====
section
/-! DEFINITION. The commands of group `ARC`: the checked forms of the arithmetic engine (spec/41_arithmetic.md R104 to
R113). -/

namespace Sys2Proof.Machine

/-- R104, R105: the wrapped sum and the overflow flag. -/
def addroRule (t : Ty) (a b : HostWord) : Result :=
  giveFlagged (wrap t (lv t a + lv t b)) (addOverflow t (lv t a) (lv t b))

/-- R106, R107: the wrapped difference and the overflow flag. -/
def subroRule (t : Ty) (a b : HostWord) : Result :=
  giveFlagged (wrap t (lv t a - lv t b)) (subOverflow t (lv t a) (lv t b))

/-- R108, R109: the product; on overflow 0, or the wrapped product where `MUL_OVF_PARTIAL` says so. -/
def mulroRule (p : MulOvfPartial) (t : Ty) (a b : HostWord) : Result :=
  let ovf := mulOverflow t (lv t a) (lv t b)
  let partialValue := if p = .wrapped then wrap t (lv t a * lv t b) else 0#32
  giveFlagged (if ovf then partialValue else enc t (lv t a * lv t b)) ovf

/-- R110, R111: the truncated quotient; 0 on overflow. -/
def divroRule (t : Ty) (a b : HostWord) : Result :=
  let ovf := divOverflow t (lv t a) (lv t b)
  giveFlagged (if ovf then 0#32 else enc t (tdiv (lv t a) (lv t b))) ovf

/-- R112, R113: the remainder with the dividend's sign; 0 on overflow. -/
def remroRule (t : Ty) (a b : HostWord) : Result :=
  let ovf := remOverflow t (lv t a) (lv t b)
  giveFlagged (if ovf then 0#32 else enc t (trem (lv t a) (lv t b))) ovf

/-- `ADDRO.S` (R104). -/
def execAddroS (s : State) : Host.Outcome State Fault Refusal :=
  finish s (addroRule .s24 (opA s) (opB s))

/-- `ADDRO.U` (R105). -/
def execAddroU (s : State) : Host.Outcome State Fault Refusal :=
  finish s (addroRule .u24 (opA s) (opB s))

/-- `SUBRO.S` (R106). -/
def execSubroS (s : State) : Host.Outcome State Fault Refusal :=
  finish s (subroRule .s24 (opA s) (opB s))

/-- `SUBRO.U` (R107). -/
def execSubroU (s : State) : Host.Outcome State Fault Refusal :=
  finish s (subroRule .u24 (opA s) (opB s))

/-- `MULRO.S` (R108). -/
def execMulroS (s : State) : Host.Outcome State Fault Refusal :=
  finish s (mulroRule s.params.mulOvfPartial .s24 (opA s) (opB s))

/-- `MULRO.U` (R109). -/
def execMulroU (s : State) : Host.Outcome State Fault Refusal :=
  finish s (mulroRule s.params.mulOvfPartial .u24 (opA s) (opB s))

/-- `DIVRO.S` (R110). -/
def execDivroS (s : State) : Host.Outcome State Fault Refusal :=
  finish s (divroRule .s24 (opA s) (opB s))

/-- `DIVRO.U` (R111). -/
def execDivroU (s : State) : Host.Outcome State Fault Refusal :=
  finish s (divroRule .u24 (opA s) (opB s))

/-- `REMRO.S` (R112). -/
def execRemroS (s : State) : Host.Outcome State Fault Refusal :=
  finish s (remroRule .s24 (opA s) (opB s))

/-- `REMRO.U` (R113). -/
def execRemroU (s : State) : Host.Outcome State Fault Refusal :=
  finish s (remroRule .u24 (opA s) (opB s))

end Sys2Proof.Machine
end

