-- ==== Sys2Proof/Machine/Compare.lean ====
section
/-! DEFINITION. The commands of group `CMP`: comparison of a 24-bit value with a foreign number by mathematical value
(spec/44_comparison.md R200 to R208). -/

namespace Sys2Proof.Machine

/-- R203 to R208: a bool of how the left operand compares with the foreign one. -/
def compareRule (holds : Rel → Bool) (t : Ty) (f : Fmt) (a : HostWord) (x : Wide) : Result :=
  giveBool (holds (relate (lv t a) (reading f x)))

/-- R203: `==`; false when unordered. -/
def relEq : Rel → Bool
  | .eq => true
  | .lt | .gt | .unordered => false

/-- R204: `!=`; true when unordered. -/
def relNe : Rel → Bool
  | .lt | .gt | .unordered => true
  | .eq => false

/-- R205: `<`. -/
def relLt : Rel → Bool
  | .lt => true
  | .eq | .gt | .unordered => false

/-- R206: `<=`. -/
def relLe : Rel → Bool
  | .lt | .eq => true
  | .gt | .unordered => false

/-- R207: `>`. -/
def relGt : Rel → Bool
  | .gt => true
  | .lt | .eq | .unordered => false

/-- R208: `>=`. -/
def relGe : Rel → Bool
  | .gt | .eq => true
  | .lt | .unordered => false

/-- `CMPEQ.S` (R203). -/
def execCmpeqS (f : Fmt) (s : State) : Host.Outcome State Fault Refusal :=
  finish s (compareRule relEq .s24 f (opA s) (opX s))

/-- `CMPEQ.U` (R203). -/
def execCmpeqU (f : Fmt) (s : State) : Host.Outcome State Fault Refusal :=
  finish s (compareRule relEq .u24 f (opA s) (opX s))

/-- `CMPNE.S` (R204). -/
def execCmpneS (f : Fmt) (s : State) : Host.Outcome State Fault Refusal :=
  finish s (compareRule relNe .s24 f (opA s) (opX s))

/-- `CMPNE.U` (R204). -/
def execCmpneU (f : Fmt) (s : State) : Host.Outcome State Fault Refusal :=
  finish s (compareRule relNe .u24 f (opA s) (opX s))

/-- `CMPLT.S` (R205). -/
def execCmpltS (f : Fmt) (s : State) : Host.Outcome State Fault Refusal :=
  finish s (compareRule relLt .s24 f (opA s) (opX s))

/-- `CMPLT.U` (R205). -/
def execCmpltU (f : Fmt) (s : State) : Host.Outcome State Fault Refusal :=
  finish s (compareRule relLt .u24 f (opA s) (opX s))

/-- `CMPLE.S` (R206). -/
def execCmpleS (f : Fmt) (s : State) : Host.Outcome State Fault Refusal :=
  finish s (compareRule relLe .s24 f (opA s) (opX s))

/-- `CMPLE.U` (R206). -/
def execCmpleU (f : Fmt) (s : State) : Host.Outcome State Fault Refusal :=
  finish s (compareRule relLe .u24 f (opA s) (opX s))

/-- `CMPGT.S` (R207). -/
def execCmpgtS (f : Fmt) (s : State) : Host.Outcome State Fault Refusal :=
  finish s (compareRule relGt .s24 f (opA s) (opX s))

/-- `CMPGT.U` (R207). -/
def execCmpgtU (f : Fmt) (s : State) : Host.Outcome State Fault Refusal :=
  finish s (compareRule relGt .u24 f (opA s) (opX s))

/-- `CMPGE.S` (R208). -/
def execCmpgeS (f : Fmt) (s : State) : Host.Outcome State Fault Refusal :=
  finish s (compareRule relGe .s24 f (opA s) (opX s))

/-- `CMPGE.U` (R208). -/
def execCmpgeU (f : Fmt) (s : State) : Host.Outcome State Fault Refusal :=
  finish s (compareRule relGe .u24 f (opA s) (opX s))

end Sys2Proof.Machine
end

