-- ==== Sys2Proof/Machine/ConvIn.lean ====
section
/-! DEFINITION. The commands of group `CVI`: conversions from a foreign format into a 24-bit type (spec/43_conversion.md
R174 to R179). A format R58 does not list makes the command reserved, which is `Fatal(ILLEGAL)` (R60). -/

namespace Sys2Proof.Machine

/-- The least value of a range below it, the greatest above it, else the value (R177, R184). -/
def clampTo (lo hi v : Int) : Int := if v < lo then lo else if hi < v then hi else v

/-- R174: the value in range, else `Fatal(RANGE)`. -/
def cviExactRule (t : Ty) (f : Fmt) (x : Wide) : Result :=
  if !f.isInt then .fatal .illegal
  else if InRange t (fint f x) then giveValue (enc t (fint f x)) else .fatal .range

/-- R175: the value when it is an integer in range, else none; NaN and the infinities are none. -/
def cviExactlyRule (t : Ty) (f : Fmt) (x : Wide) : Result :=
  match reading f x with
  | .finite num scale =>
    if num % 2 ^ scale = 0 ∧ InRange t (num / 2 ^ scale) then giveValue (enc t (num / 2 ^ scale)) else giveNone
  | .posInf => giveNone
  | .negInf => giveNone
  | .nan => giveNone

/-- R176: the low 24 bits of the two's complement of the value, whatever its range. -/
def cviTruncRule (t : Ty) (f : Fmt) (x : Wide) : Result :=
  if !f.isInt then .fatal .illegal else giveValue (wrap t (fint f x))

/-- R177: the value saturated to the type's range. -/
def cviClampRule (t : Ty) (f : Fmt) (x : Wide) : Result :=
  if !f.isInt then .fatal .illegal else giveValue (enc t (clampTo (minOf t) (maxOf t) (fint f x)))

/-- R178: the float rounded to an integer by R179, then the range precondition; NaN and the infinities are
`Fatal(RANGE)`. -/
def cviRoundRule (p : F2iRound) (t : Ty) (f : Fmt) (x : Wide) : Result :=
  if !f.isFloat then .fatal .illegal
  else
    match fdec f x with
    | .finite num scale =>
      if InRange t (rnd p num scale) then giveValue (enc t (rnd p num scale)) else .fatal .range
    | .posInf => .fatal .range
    | .negInf => .fatal .range
    | .nan => .fatal .range

/-- `CVI.EXACT.S` (R174). -/
def execCviExactS (f : Fmt) (s : State) : Host.Outcome State Fault Refusal :=
  finish s (cviExactRule .s24 f (opX s))

/-- `CVI.EXACT.U` (R174). -/
def execCviExactU (f : Fmt) (s : State) : Host.Outcome State Fault Refusal :=
  finish s (cviExactRule .u24 f (opX s))

/-- `CVI.EXACTLY.S` (R175). -/
def execCviExactlyS (f : Fmt) (s : State) : Host.Outcome State Fault Refusal :=
  finish s (cviExactlyRule .s24 f (opX s))

/-- `CVI.EXACTLY.U` (R175). -/
def execCviExactlyU (f : Fmt) (s : State) : Host.Outcome State Fault Refusal :=
  finish s (cviExactlyRule .u24 f (opX s))

/-- `CVI.TRUNC.S` (R176). -/
def execCviTruncS (f : Fmt) (s : State) : Host.Outcome State Fault Refusal :=
  finish s (cviTruncRule .s24 f (opX s))

/-- `CVI.TRUNC.U` (R176). -/
def execCviTruncU (f : Fmt) (s : State) : Host.Outcome State Fault Refusal :=
  finish s (cviTruncRule .u24 f (opX s))

/-- `CVI.CLAMP.S` (R177). -/
def execCviClampS (f : Fmt) (s : State) : Host.Outcome State Fault Refusal :=
  finish s (cviClampRule .s24 f (opX s))

/-- `CVI.CLAMP.U` (R177). -/
def execCviClampU (f : Fmt) (s : State) : Host.Outcome State Fault Refusal :=
  finish s (cviClampRule .u24 f (opX s))

/-- `CVI.ROUND.S` (R178). -/
def execCviRoundS (f : Fmt) (s : State) : Host.Outcome State Fault Refusal :=
  finish s (cviRoundRule s.params.f2iRound .s24 f (opX s))

/-- `CVI.ROUND.U` (R178). -/
def execCviRoundU (f : Fmt) (s : State) : Host.Outcome State Fault Refusal :=
  finish s (cviRoundRule s.params.f2iRound .u24 f (opX s))

end Sys2Proof.Machine
end

