-- ==== Sys2Proof/Machine/ConvOut.lean ====
section
/-! DEFINITION. The commands of group `CVO`: conversions from a 24-bit type to a foreign format (spec/43_conversion.md R180
to R185). A format R58 does not list makes the command reserved, which is `Fatal(ILLEGAL)` (R60). -/

namespace Sys2Proof.Machine

/-- Whether an integer fits a format (R181, R182). -/
abbrev Fits (f : Fmt) (v : Int) : Prop := fmin f ≤ v ∧ v ≤ fmax f

/-- R181: the image of a value that fits, else `Fatal(RANGE)`. -/
def cvoExactRule (t : Ty) (f : Fmt) (a : HostWord) : Result :=
  if !f.isNativeInt then .fatal .illegal
  else if Fits f (lv t a) then give (fbits f (lv t a)) else .fatal .range

/-- R182: the image of a value that fits, else none. -/
def cvoExactlyRule (t : Ty) (f : Fmt) (a : HostWord) : Result :=
  if !f.isNativeInt then .fatal .illegal
  else if Fits f (lv t a) then give (fbits f (lv t a)) else giveNone

/-- R183: the low bits of the two's complement of the value. -/
def cvoTruncRule (t : Ty) (f : Fmt) (a : HostWord) : Result :=
  if !f.isNativeInt then .fatal .illegal else give (fbits f (lv t a))

/-- R184: the value saturated to the format's range. -/
def cvoClampRule (t : Ty) (f : Fmt) (a : HostWord) : Result :=
  if !f.isNativeInt then .fatal .illegal else give (fbits f (clampTo (fmin f) (fmax f) (lv t a)))

/-- R185: the exact floating image of the value. -/
def cvoFloatRule (t : Ty) (f : Fmt) (a : HostWord) : Result :=
  if !f.isFloat then .fatal .illegal else give (ffloat f (lv t a))

/-- `CVO.EXACT.S` (R181). -/
def execCvoExactS (f : Fmt) (s : State) : Host.Outcome State Fault Refusal :=
  finish s (cvoExactRule .s24 f (opA s))

/-- `CVO.EXACT.U` (R181). -/
def execCvoExactU (f : Fmt) (s : State) : Host.Outcome State Fault Refusal :=
  finish s (cvoExactRule .u24 f (opA s))

/-- `CVO.EXACTLY.S` (R182). -/
def execCvoExactlyS (f : Fmt) (s : State) : Host.Outcome State Fault Refusal :=
  finish s (cvoExactlyRule .s24 f (opA s))

/-- `CVO.EXACTLY.U` (R182). -/
def execCvoExactlyU (f : Fmt) (s : State) : Host.Outcome State Fault Refusal :=
  finish s (cvoExactlyRule .u24 f (opA s))

/-- `CVO.TRUNC.S` (R183). -/
def execCvoTruncS (f : Fmt) (s : State) : Host.Outcome State Fault Refusal :=
  finish s (cvoTruncRule .s24 f (opA s))

/-- `CVO.TRUNC.U` (R183). -/
def execCvoTruncU (f : Fmt) (s : State) : Host.Outcome State Fault Refusal :=
  finish s (cvoTruncRule .u24 f (opA s))

/-- `CVO.CLAMP.S` (R184). -/
def execCvoClampS (f : Fmt) (s : State) : Host.Outcome State Fault Refusal :=
  finish s (cvoClampRule .s24 f (opA s))

/-- `CVO.CLAMP.U` (R184). -/
def execCvoClampU (f : Fmt) (s : State) : Host.Outcome State Fault Refusal :=
  finish s (cvoClampRule .u24 f (opA s))

/-- `CVO.FLOAT.S` (R185). -/
def execCvoFloatS (f : Fmt) (s : State) : Host.Outcome State Fault Refusal :=
  finish s (cvoFloatRule .s24 f (opA s))

/-- `CVO.FLOAT.U` (R185). -/
def execCvoFloatU (f : Fmt) (s : State) : Host.Outcome State Fault Refusal :=
  finish s (cvoFloatRule .u24 f (opA s))

end Sys2Proof.Machine
end

