-- ==== Sys2Proof/Machine/Representation.lean ====
section
/-! DEFINITION. The commands of group `REP`: the Representation and Sign Model (spec/40_representation.md R81 to R91). -/

namespace Sys2Proof.Machine

/-- R84: the logical host word of a value, on `Y[31:0]`. -/
def valueRule (t : Ty) (a : HostWord) : Result := give ((BitVec.ofInt 32 (lv t a)).setWidth 64)

/-- R88: the absolute value, delivered as a `U24` for both types. -/
def magRule (t : Ty) (a : HostWord) : Result := giveValue (enc .u24 ((lv t a).natAbs : Int))

/-- R89: -1, 0 or 1 by sign, in the operand's own type. -/
def signumRule (t : Ty) (a : HostWord) : Result :=
  let v := lv t a
  giveValue (enc t ((if 0 < v then 1 else 0) - (if v < 0 then 1 else 0)))

/-- R91: one 64-bit limb, the two's-complement image of the logical value. -/
def wordsRule (t : Ty) (a : HostWord) : Result := give (BitVec.ofInt 64 (lv t a))

/-- `ZERO.S` (R81). -/
def execZeroS (s : State) : Host.Outcome State Fault Refusal :=
  finish s (give 0#64)

/-- `ZERO.U` (R81). -/
def execZeroU (s : State) : Host.Outcome State Fault Refusal :=
  finish s (give 0#64)

/-- `CANON.S` (R82). -/
def execCanonS (s : State) : Host.Outcome State Fault Refusal :=
  finish s (giveValue (opA s))

/-- `CANON.U` (R82). -/
def execCanonU (s : State) : Host.Outcome State Fault Refusal :=
  finish s (giveValue (opA s))

/-- `VALUE.S` (R84). -/
def execValueS (s : State) : Host.Outcome State Fault Refusal :=
  finish s (valueRule .s24 (opA s))

/-- `VALUE.U` (R84). -/
def execValueU (s : State) : Host.Outcome State Fault Refusal :=
  finish s (valueRule .u24 (opA s))

/-- `RAW.S` (R85). -/
def execRawS (s : State) : Host.Outcome State Fault Refusal :=
  finish s (giveValue (opA s))

/-- `RAW.U` (R85). -/
def execRawU (s : State) : Host.Outcome State Fault Refusal :=
  finish s (giveValue (opA s))

/-- `BITCAST.S` (R86). -/
def execBitcastS (s : State) : Host.Outcome State Fault Refusal :=
  finish s (giveValue (opA s))

/-- `BITCAST.U` (R86). -/
def execBitcastU (s : State) : Host.Outcome State Fault Refusal :=
  finish s (giveValue (opA s))

/-- `MAG.S` (R88). -/
def execMagS (s : State) : Host.Outcome State Fault Refusal :=
  finish s (magRule .s24 (opA s))

/-- `MAG.U` (R88). -/
def execMagU (s : State) : Host.Outcome State Fault Refusal :=
  finish s (magRule .u24 (opA s))

/-- `SIGNUM.S` (R89). -/
def execSignumS (s : State) : Host.Outcome State Fault Refusal :=
  finish s (signumRule .s24 (opA s))

/-- `SIGNUM.U` (R89). -/
def execSignumU (s : State) : Host.Outcome State Fault Refusal :=
  finish s (signumRule .u24 (opA s))

/-- `WORDS.S` (R91). -/
def execWordsS (s : State) : Host.Outcome State Fault Refusal :=
  finish s (wordsRule .s24 (opA s))

/-- `WORDS.U` (R91). -/
def execWordsU (s : State) : Host.Outcome State Fault Refusal :=
  finish s (wordsRule .u24 (opA s))

end Sys2Proof.Machine
end

