-- ==== Sys2Proof/Machine/Trapping.lean ====
section
/-! DEFINITION. The commands of group `ARU`: the trapping forms and the derived operations of the arithmetic engine
(spec/41_arithmetic.md R115 to R123). -/

namespace Sys2Proof.Machine

/-- R115 to R117: an exact result is delivered when it is in range and is `Fatal(OVERFLOW)` otherwise. -/
def trapUnlessInRange (t : Ty) (v : Int) : Result :=
  if InRange t v then giveValue (enc t v) else .fatal .overflow

/-- R118: the truncated quotient; a zero divisor and `MIN_S / -1` are `Fatal(OVERFLOW)`. -/
def divRule (t : Ty) (a b : HostWord) : Result :=
  if divOverflow t (lv t a) (lv t b) then .fatal .overflow else giveValue (enc t (tdiv (lv t a) (lv t b)))

/-- R119: the remainder; a zero divisor and `MIN_S % -1` are `Fatal(OVERFLOW)`. -/
def remRule (t : Ty) (a b : HostWord) : Result :=
  if remOverflow t (lv t a) (lv t b) then .fatal .overflow else giveValue (enc t (trem (lv t a) (lv t b)))

/-- R120: quotient and remainder together, fatal as `DIV` is. -/
def divremRule (t : Ty) (a b : HostWord) : Result :=
  if divOverflow t (lv t a) (lv t b) then .fatal .overflow
  else givePair (enc t (tdiv (lv t a) (lv t b))) (enc t (trem (lv t a) (lv t b)))

/-- R121, R122: the 48-bit number of a high and a low half; only the high half carries the type's sign. -/
def fullWidth (t : Ty) (high low : HostWord) : Int := lv t high * 2 ^ 24 + (low.toNat : Int)

/-- R121, R122: full-width division; a zero divisor and a quotient or remainder out of range are `Fatal(FWDIV)`. -/
def divfwRule (t : Ty) (high low d : HostWord) : Result :=
  let n := fullWidth t high low
  if lv t d = 0 then .fatal .fwdiv
  else if ¬ InRange t (tdiv n (lv t d)) ∨ ¬ InRange t (trem n (lv t d)) then .fatal .fwdiv
  else givePair (enc t (tdiv n (lv t d))) (enc t (trem n (lv t d)))

/-- R123: whether the first operand is a multiple of the second; a zero divisor is no error. -/
def ismultRule (t : Ty) (a b : HostWord) : Result :=
  if lv t b = 0 then giveBool (decide (lv t a = 0)) else giveBool (decide (trem (lv t a) (lv t b) = 0))

/-- `ADD.S` (R115). -/
def execAddS (s : State) : Host.Outcome State Fault Refusal :=
  finish s (trapUnlessInRange .s24 (lv .s24 (opA s) + lv .s24 (opB s)))

/-- `ADD.U` (R115). -/
def execAddU (s : State) : Host.Outcome State Fault Refusal :=
  finish s (trapUnlessInRange .u24 (lv .u24 (opA s) + lv .u24 (opB s)))

/-- `SUB.S` (R116). -/
def execSubS (s : State) : Host.Outcome State Fault Refusal :=
  finish s (trapUnlessInRange .s24 (lv .s24 (opA s) - lv .s24 (opB s)))

/-- `SUB.U` (R116). -/
def execSubU (s : State) : Host.Outcome State Fault Refusal :=
  finish s (trapUnlessInRange .u24 (lv .u24 (opA s) - lv .u24 (opB s)))

/-- `MUL.S` (R117). -/
def execMulS (s : State) : Host.Outcome State Fault Refusal :=
  finish s (trapUnlessInRange .s24 (lv .s24 (opA s) * lv .s24 (opB s)))

/-- `MUL.U` (R117). -/
def execMulU (s : State) : Host.Outcome State Fault Refusal :=
  finish s (trapUnlessInRange .u24 (lv .u24 (opA s) * lv .u24 (opB s)))

/-- `DIV.S` (R118). -/
def execDivS (s : State) : Host.Outcome State Fault Refusal :=
  finish s (divRule .s24 (opA s) (opB s))

/-- `DIV.U` (R118). -/
def execDivU (s : State) : Host.Outcome State Fault Refusal :=
  finish s (divRule .u24 (opA s) (opB s))

/-- `REM.S` (R119). -/
def execRemS (s : State) : Host.Outcome State Fault Refusal :=
  finish s (remRule .s24 (opA s) (opB s))

/-- `REM.U` (R119). -/
def execRemU (s : State) : Host.Outcome State Fault Refusal :=
  finish s (remRule .u24 (opA s) (opB s))

/-- `DIVREM.S` (R120). -/
def execDivremS (s : State) : Host.Outcome State Fault Refusal :=
  finish s (divremRule .s24 (opA s) (opB s))

/-- `DIVREM.U` (R120). -/
def execDivremU (s : State) : Host.Outcome State Fault Refusal :=
  finish s (divremRule .u24 (opA s) (opB s))

/-- `DIVFW.S` (R121). -/
def execDivfwS (s : State) : Host.Outcome State Fault Refusal :=
  finish s (divfwRule .s24 (opA s) (opB s) (opC s))

/-- `DIVFW.U` (R122). -/
def execDivfwU (s : State) : Host.Outcome State Fault Refusal :=
  finish s (divfwRule .u24 (opA s) (opB s) (opC s))

/-- `ISMULT.S` (R123). -/
def execIsmultS (s : State) : Host.Outcome State Fault Refusal :=
  finish s (ismultRule .s24 (opA s) (opB s))

/-- `ISMULT.U` (R123). -/
def execIsmultU (s : State) : Host.Outcome State Fault Refusal :=
  finish s (ismultRule .u24 (opA s) (opB s))

end Sys2Proof.Machine
end

