-- ==== Sys2Proof/Machine/Dispatch.lean ====
section
/-! DEFINITION. The meaning of every command, one arm per constructor of `Instr` (spec/30_encoding.md R53, R63). -/

namespace Sys2Proof.Machine

def exec (i : Instr) (s : State) : Host.Outcome State Fault Refusal :=
  match i with
  | .zeroS => Sys2Proof.Machine.execZeroS s
  | .zeroU => Sys2Proof.Machine.execZeroU s
  | .canonS => Sys2Proof.Machine.execCanonS s
  | .canonU => Sys2Proof.Machine.execCanonU s
  | .valueS => Sys2Proof.Machine.execValueS s
  | .valueU => Sys2Proof.Machine.execValueU s
  | .rawS => Sys2Proof.Machine.execRawS s
  | .rawU => Sys2Proof.Machine.execRawU s
  | .bitcastS => Sys2Proof.Machine.execBitcastS s
  | .bitcastU => Sys2Proof.Machine.execBitcastU s
  | .magS => Sys2Proof.Machine.execMagS s
  | .magU => Sys2Proof.Machine.execMagU s
  | .signumS => Sys2Proof.Machine.execSignumS s
  | .signumU => Sys2Proof.Machine.execSignumU s
  | .wordsS => Sys2Proof.Machine.execWordsS s
  | .wordsU => Sys2Proof.Machine.execWordsU s
  | .addroS => Sys2Proof.Machine.execAddroS s
  | .addroU => Sys2Proof.Machine.execAddroU s
  | .subroS => Sys2Proof.Machine.execSubroS s
  | .subroU => Sys2Proof.Machine.execSubroU s
  | .mulroS => Sys2Proof.Machine.execMulroS s
  | .mulroU => Sys2Proof.Machine.execMulroU s
  | .divroS => Sys2Proof.Machine.execDivroS s
  | .divroU => Sys2Proof.Machine.execDivroU s
  | .remroS => Sys2Proof.Machine.execRemroS s
  | .remroU => Sys2Proof.Machine.execRemroU s
  | .addS => Sys2Proof.Machine.execAddS s
  | .addU => Sys2Proof.Machine.execAddU s
  | .subS => Sys2Proof.Machine.execSubS s
  | .subU => Sys2Proof.Machine.execSubU s
  | .mulS => Sys2Proof.Machine.execMulS s
  | .mulU => Sys2Proof.Machine.execMulU s
  | .divS => Sys2Proof.Machine.execDivS s
  | .divU => Sys2Proof.Machine.execDivU s
  | .remS => Sys2Proof.Machine.execRemS s
  | .remU => Sys2Proof.Machine.execRemU s
  | .divremS => Sys2Proof.Machine.execDivremS s
  | .divremU => Sys2Proof.Machine.execDivremU s
  | .divfwS => Sys2Proof.Machine.execDivfwS s
  | .divfwU => Sys2Proof.Machine.execDivfwU s
  | .ismultS => Sys2Proof.Machine.execIsmultS s
  | .ismultU => Sys2Proof.Machine.execIsmultU s
  | .andS => Sys2Proof.Machine.execAndS s
  | .andU => Sys2Proof.Machine.execAndU s
  | .orS => Sys2Proof.Machine.execOrS s
  | .orU => Sys2Proof.Machine.execOrU s
  | .xorS => Sys2Proof.Machine.execXorS s
  | .xorU => Sys2Proof.Machine.execXorU s
  | .notS => Sys2Proof.Machine.execNotS s
  | .notU => Sys2Proof.Machine.execNotU s
  | .shlS => Sys2Proof.Machine.execShlS s
  | .shlU => Sys2Proof.Machine.execShlU s
  | .shrS => Sys2Proof.Machine.execShrS s
  | .shrU => Sys2Proof.Machine.execShrU s
  | .bswapS => Sys2Proof.Machine.execBswapS s
  | .bswapU => Sys2Proof.Machine.execBswapU s
  | .popcntS => Sys2Proof.Machine.execPopcntS s
  | .popcntU => Sys2Proof.Machine.execPopcntU s
  | .clzS => Sys2Proof.Machine.execClzS s
  | .clzU => Sys2Proof.Machine.execClzU s
  | .ctzS => Sys2Proof.Machine.execCtzS s
  | .ctzU => Sys2Proof.Machine.execCtzU s
  | .cviExactS f => Sys2Proof.Machine.execCviExactS f s
  | .cviExactU f => Sys2Proof.Machine.execCviExactU f s
  | .cviExactlyS f => Sys2Proof.Machine.execCviExactlyS f s
  | .cviExactlyU f => Sys2Proof.Machine.execCviExactlyU f s
  | .cviTruncS f => Sys2Proof.Machine.execCviTruncS f s
  | .cviTruncU f => Sys2Proof.Machine.execCviTruncU f s
  | .cviClampS f => Sys2Proof.Machine.execCviClampS f s
  | .cviClampU f => Sys2Proof.Machine.execCviClampU f s
  | .cviRoundS f => Sys2Proof.Machine.execCviRoundS f s
  | .cviRoundU f => Sys2Proof.Machine.execCviRoundU f s
  | .cvoExactS f => Sys2Proof.Machine.execCvoExactS f s
  | .cvoExactU f => Sys2Proof.Machine.execCvoExactU f s
  | .cvoExactlyS f => Sys2Proof.Machine.execCvoExactlyS f s
  | .cvoExactlyU f => Sys2Proof.Machine.execCvoExactlyU f s
  | .cvoTruncS f => Sys2Proof.Machine.execCvoTruncS f s
  | .cvoTruncU f => Sys2Proof.Machine.execCvoTruncU f s
  | .cvoClampS f => Sys2Proof.Machine.execCvoClampS f s
  | .cvoClampU f => Sys2Proof.Machine.execCvoClampU f s
  | .cvoFloatS f => Sys2Proof.Machine.execCvoFloatS f s
  | .cvoFloatU f => Sys2Proof.Machine.execCvoFloatU f s
  | .cmpeqS f => Sys2Proof.Machine.execCmpeqS f s
  | .cmpeqU f => Sys2Proof.Machine.execCmpeqU f s
  | .cmpneS f => Sys2Proof.Machine.execCmpneS f s
  | .cmpneU f => Sys2Proof.Machine.execCmpneU f s
  | .cmpltS f => Sys2Proof.Machine.execCmpltS f s
  | .cmpltU f => Sys2Proof.Machine.execCmpltU f s
  | .cmpleS f => Sys2Proof.Machine.execCmpleS f s
  | .cmpleU f => Sys2Proof.Machine.execCmpleU f s
  | .cmpgtS f => Sys2Proof.Machine.execCmpgtS f s
  | .cmpgtU f => Sys2Proof.Machine.execCmpgtU f s
  | .cmpgeS f => Sys2Proof.Machine.execCmpgeS f s
  | .cmpgeU f => Sys2Proof.Machine.execCmpgeU f s

end Sys2Proof.Machine
end

