-- ==== Sys2Proof/Machine/Step.lean ====
section
/-! DEFINITION. One transaction (spec/10_state.md R29, spec/60_exceptions.md R228): the checks in their order, the
command's rule, and the host presenting its next transaction. -/

namespace Sys2Proof.Machine

/-- R29: reset, idle and halted transactions execute no command; a reserved word is `Fatal(ILLEGAL)`; any other
word runs the command it decodes to. -/
def step (s : State) : Host.Outcome State Fault Refusal :=
  match noCommand s with
  | some t => .next (presentNext t)
  | none =>
    match decodeNamed (fetch s) with
    | .error _ => .next (presentNext (raiseFatal .illegal s))
    | .ok i => thenPresent (exec i s)

/-- The command of a table word requested on the ports (log 3). -/
def State.withFetchWord (s : State) (nbits w : Nat) : State := presentWord (w % 2 ^ nbits) s

end Sys2Proof.Machine
end

