-- ==== Sys2Proof/Machine/Assembler.lean ====
section
/-! DEFINITION. The line syntax and the pseudo-instructions of spec/30_encoding.md R64 to R68: how a written command
and its sources become the ports of one transaction. This is host-side spelling; no step uses it. -/

namespace Sys2Proof.Machine

/-- A literal source of a line (R64): a bit pattern (written in hexadecimal) or a decimal integer. -/
inductive Source where
  | bits (v : Wide)
  | int (i : Int)
deriving DecidableEq, Repr

/-- R64: what a literal puts on a value port of type `T`: a pattern is the port's own bits, a decimal integer in
range is `enc(T, i)`; any other literal is not a source of that port. -/
def valueSource (t : Ty) : Source → Option HostWord
  | .bits v => if v.toNat < 2 ^ 32 then some (v.setWidth 32) else none
  | .int i => if InRange t i then some (enc t i) else none

/-- R64: what a literal puts on port `X` in a format: a pattern, or for an integer format an integer it holds. A
decimal floating literal is written as its bit pattern here (log 6). -/
def foreignSource (f : Fmt) : Source → Option Wide
  | .bits v => some v
  | .int i => if f.isInt = true ∧ Fits f i then some (fbits f i) else none

/-- The type a command operates in (R54). -/
def instrTy (i : Instr) : Ty := tyField (encode i)

/-- The format in which a command reads `X` (R57); the shift count of group `BIT` is read as `I32` (R58, R59). -/
def xFormat (i : Instr) : Fmt :=
  if grpField (encode i) = 3 then .i32 else (fmtOfCode (fmtField (encode i))).getD .i32

/-- One value port of a line: the next source where the command reads the port, else zero. -/
def takeValue (reads : Bool) (t : Ty) (srcs : List Source) : Option (HostWord × List Source) :=
  match reads, srcs with
  | false, _ => some (0#32, srcs)
  | true, [] => none
  | true, p :: rest => (valueSource t p).map fun w => (w, rest)

/-- Port `X` of a line: the next source where the command reads it, else zero. -/
def takeForeign (reads : Bool) (f : Fmt) (srcs : List Source) : Option (Wide × List Source) :=
  match reads, srcs with
  | false, _ => some (0#64, srcs)
  | true, [] => none
  | true, p :: rest => (foreignSource f p).map fun x => (x, rest)

/-- R64: a line is one transaction; its sources go, in order, to the ports the command reads in the order `A`, `B`,
`C`, `X`, and a line with too few or too many sources is no line. -/
def assemble (i : Instr) (srcs : List Source) : Option Inputs :=
  let r := portsRead i
  match takeValue r.a (instrTy i) srcs with
  | none => none
  | some (a, s1) =>
    match takeValue r.b (instrTy i) s1 with
    | none => none
    | some (b, s2) =>
      match takeValue r.c (instrTy i) s2 with
      | none => none
      | some (c, s3) =>
        match takeForeign (decide (0 < r.xBits)) (xFormat i) s3 with
        | none => none
        | some (x, s4) => if s4 = [] then some ⟨false, true, encode i, a, b, c, x⟩ else none

/-- The pseudo-instructions: compound assignment (R66), a foreign operand on the left of a comparison (R67),
literals, copy and constants (R68). -/
inductive Pseudo where
  | adda (t : Ty)
  | suba (t : Ty)
  | mula (t : Ty)
  | diva (t : Ty)
  | rema (t : Ty)
  | anda (t : Ty)
  | ora (t : Ty)
  | xora (t : Ty)
  | shla (t : Ty)
  | shra (t : Ty)
  /-- `x < a` -/
  | foreignLt (t : Ty) (f : Fmt)
  /-- `x <= a` -/
  | foreignLe (t : Ty) (f : Fmt)
  /-- `x > a` -/
  | foreignGt (t : Ty) (f : Fmt)
  /-- `x >= a` -/
  | foreignGe (t : Ty) (f : Fmt)
  /-- `x == a` -/
  | foreignEq (t : Ty) (f : Fmt)
  /-- `x != a` -/
  | foreignNe (t : Ty) (f : Fmt)
  | lit (t : Ty)
  | flit (t : Ty)
  | mov (t : Ty)
  | minConst (t : Ty)
  | maxConst (t : Ty)
deriving DecidableEq, Repr

/-- The command a pseudo-instruction is issued as (R66, R67, R68). -/
def expandPseudo : Pseudo → Instr
  | .adda t => t.pick .addS .addU
  | .suba t => t.pick .subS .subU
  | .mula t => t.pick .mulS .mulU
  | .diva t => t.pick .divS .divU
  | .rema t => t.pick .remS .remU
  | .anda t => t.pick .andS .andU
  | .ora t => t.pick .orS .orU
  | .xora t => t.pick .xorS .xorU
  | .shla t => t.pick .shlS .shlU
  | .shra t => t.pick .shrS .shrU
  | .foreignLt t f => t.pick (.cmpgtS f) (.cmpgtU f)
  | .foreignLe t f => t.pick (.cmpgeS f) (.cmpgeU f)
  | .foreignGt t f => t.pick (.cmpltS f) (.cmpltU f)
  | .foreignGe t f => t.pick (.cmpleS f) (.cmpleU f)
  | .foreignEq t f => t.pick (.cmpeqS f) (.cmpeqU f)
  | .foreignNe t f => t.pick (.cmpneS f) (.cmpneU f)
  | .lit t => t.pick (.cviExactS .i64) (.cviExactU .i64)
  | .flit t => t.pick (.cviRoundS .f64) (.cviRoundU .f64)
  | .mov t => t.pick .canonS .canonU
  | .minConst t => t.pick (.cviExactS .i64) (.cviExactU .i64)
  | .maxConst t => t.pick (.cviExactS .i64) (.cviExactU .i64)

/-- The sources of the issued command: R67 swaps the operands, R68 supplies the constants. -/
def expandSources : Pseudo → List Source → Option (List Source)
  | .foreignLt _ _, [x, a] | .foreignLe _ _, [x, a] | .foreignGt _ _, [x, a] | .foreignGe _ _, [x, a]
  | .foreignEq _ _, [x, a] | .foreignNe _ _, [x, a] => some [a, x]
  | .foreignLt _ _, _ | .foreignLe _ _, _ | .foreignGt _ _, _ | .foreignGe _ _, _
  | .foreignEq _ _, _ | .foreignNe _ _, _ => none
  | .minConst t, [] => some [.int (minOf t)]
  | .maxConst t, [] => some [.int (maxOf t)]
  | .minConst _, _ :: _ | .maxConst _, _ :: _ => none
  | .adda _, srcs | .suba _, srcs | .mula _, srcs | .diva _, srcs | .rema _, srcs | .anda _, srcs
  | .ora _, srcs | .xora _, srcs | .shla _, srcs | .shra _, srcs | .lit _, srcs | .flit _, srcs
  | .mov _, srcs => some srcs

/-- The transaction a pseudo-instruction line is issued as. -/
def assemblePseudo (p : Pseudo) (srcs : List Source) : Option Inputs :=
  match expandSources p srcs with
  | none => none
  | some plain => assemble (expandPseudo p) plain

end Sys2Proof.Machine
end

