-- ==== Sys2Proof/Safety.lean ====
section
/-! DEFINITION. The terms claims are written in: what it is for a command to deliver or to trap, which states are
well formed, when a fault record explains itself, and when a run succeeded (spec/70_reset_and_hazards.md R253). -/

namespace Sys2Proof.Machine

/-- The command answers a next state that differs from `s` in the result outputs only (R29). -/
abbrev Delivers (i : Instr) (s : State) (o : Outputs) : Prop := exec i s = .next { s with out := o }

/-- The command answers the halted next state of a fatal (R226): outputs zero, the record as it says, and nothing
else changed. -/
abbrev Traps (i : Instr) (s : State) (c : Cause) : Prop :=
  exec i s = .next
    { s with
      out := ⟨0#64, 0#32, false, false⟩
      record := ⟨true, some c, s.inp.cmd, s.inp.a, s.inp.b, s.inp.c, s.inp.x⟩ }

/-- The outputs of a command whose result is on `Y` alone. -/
abbrev yOnly (y : Wide) : Outputs := ⟨y, 0#32, false, true⟩

/-- The outputs of a command whose result is a bool in `Y[0]` (R59). -/
abbrev yBool (p : Bool) : Outputs := yOnly (if p then 1#64 else 0#64)

/-- The transaction at the ports presents a command to a running block (R228: none of checks 1 to 3 applies). -/
def Presents (s : State) (w : CmdWord) : Prop :=
  s.inp.rst = false ∧ s.inp.req = true ∧ s.record.fatal = false ∧ s.inp.cmd = w

/-- Halted (R28). -/
def Halted (s : State) : Prop := s.record.fatal = true

/-- A run ended well (R253). -/
def Succeeded (s : State) : Prop := s.record.fatal = false

/-- The fault record is all zero while running and names a cause while halted (R27, R29). -/
def FaultRecord.wf (r : FaultRecord) : Prop :=
  if r.fatal then r.fcause ≠ none else r = ⟨false, none, 0#16, 0#32, 0#32, 0#32, 0#64⟩

/-- The result outputs: without `VALID` they are all zero, and `Y2` is a stored word (R25, R26). -/
def Outputs.wf (o : Outputs) : Prop :=
  (o.valid = false → o = ⟨0#64, 0#32, false, false⟩) ∧ o.y2 &&& 0xFF000000#32 = 0#32

/-- The invariant of the machine. -/
def State.wf (s : State) : Prop := s.record.wf ∧ s.out.wf

/-- The recorded transaction on the ports of a running block again. -/
def replay (s : State) : State :=
  { s with
    record := ⟨false, none, 0#16, 0#32, 0#32, 0#32, 0#64⟩
    inp := ⟨false, true, s.record.fcmd, s.record.fopa, s.record.fopb, s.record.fopc, s.record.fopx⟩ }

/-- A halted block's record explains the halt (R27): the recorded word is reserved and the cause is `ILLEGAL`, or it
is a command that raises exactly the recorded cause on the recorded operands. -/
def State.explained (s : State) : Prop :=
  s.record.fatal = true →
    (decode s.record.fcmd = none ∧ s.record.fcause = some .illegal) ∨
    (∃ i c, decode s.record.fcmd = some i ∧ s.record.fcause = some c ∧ Traps i (replay s) c)

/-- The one fatal a command can raise by its operands (R221, R228), `none` for a command that raises none. -/
def causeOf : Instr → Option Cause
  | .cviExactS _ | .cviExactU _ | .cviRoundS _ | .cviRoundU _ | .cvoExactS _ | .cvoExactU _ => some .range
  | .shlS | .shlU | .shrS | .shrU => some .shift
  | .addS | .addU | .subS | .subU | .mulS | .mulU | .divS | .divU | .remS | .remU
  | .divremS | .divremU => some .overflow
  | .divfwS | .divfwU => some .fwdiv
  | .zeroS | .zeroU | .canonS | .canonU | .valueS | .valueU | .rawS | .rawU | .bitcastS | .bitcastU
  | .magS | .magU | .signumS | .signumU | .wordsS | .wordsU | .addroS | .addroU | .subroS | .subroU
  | .mulroS | .mulroU | .divroS | .divroU | .remroS | .remroU | .ismultS | .ismultU | .andS | .andU
  | .orS | .orU | .xorS | .xorU | .notS | .notU | .bswapS | .bswapU | .popcntS | .popcntU | .clzS | .clzU
  | .ctzS | .ctzU => none
  | .cviExactlyS _ | .cviExactlyU _ | .cviTruncS _ | .cviTruncU _ | .cviClampS _ | .cviClampU _
  | .cvoExactlyS _ | .cvoExactlyU _ | .cvoTruncS _ | .cvoTruncU _ | .cvoClampS _ | .cvoClampU _
  | .cvoFloatS _ | .cvoFloatU _ => none
  | .cmpeqS _ | .cmpeqU _ | .cmpneS _ | .cmpneU _ | .cmpltS _ | .cmpltU _ | .cmpleS _ | .cmpleU _
  | .cmpgtS _ | .cmpgtU _ | .cmpgeS _ | .cmpgeU _ => none

/-- Two transactions carry the same operands for a command: they agree on the bits of the ports it reads (R59, R25,
R57). -/
def SameOperands (i : Instr) (p q : Inputs) : Prop :=
  ((portsRead i).a = true → p.a.setWidth 24 = q.a.setWidth 24) ∧
  ((portsRead i).b = true → p.b.setWidth 24 = q.b.setWidth 24) ∧
  ((portsRead i).c = true → p.c.setWidth 24 = q.c.setWidth 24) ∧
  p.x.setWidth (portsRead i).xBits = q.x.setWidth (portsRead i).xBits

end Sys2Proof.Machine
end

