-- ==== Sys2Proof/Certificates/Slice0/Obligations.lean ====
section
/-! DEFINITION. The statements about the CTI24 ALU. A statement about a command says what `exec` answers on every
state: the next state in full, so that everything it does not name is unchanged. -/

open Sys2Proof Sys2Proof.Machine

/-! ## Command words -/

/-- Decoding undoes encoding for every well-formed command, every format included (spec/30_encoding.md R51 to R62). -/
def Obligations.DecodeOfEncode : Prop :=
  ∀ i : Instr, i.wellFormed = true → decode (encode i) = some i

/-- A word that decodes is exactly the encoding of the well-formed command it decodes to: no bit of it is dropped. -/
def Obligations.EncodeOfDecode : Prop :=
  ∀ (w : CmdWord) (i : Instr), decode w = some i → i.wellFormed = true ∧ encode i = w

/-- The reserved words, from the list of R60 and the rows of R58, without the decoder's own table. -/
def Obligations.ReservedWordsExactly : Prop :=
  ∀ w : CmdWord,
    let grp := w.toNat / 4096
    let fn := w.toNat / 256 % 16
    let rsv := w.toNat / 16 % 8
    let fmt := w.toNat % 16
    decode w = none ↔
      rsv ≠ 0 ∨ 7 ≤ grp ∨
      (grp = 0 ∧ 8 ≤ fn) ∨ (grp = 1 ∧ 5 ≤ fn) ∨ (grp = 2 ∧ 8 ≤ fn) ∨ (grp = 3 ∧ 10 ≤ fn) ∨
      (grp = 4 ∧ 5 ≤ fn) ∨ (grp = 5 ∧ 5 ≤ fn) ∨ (grp = 6 ∧ 6 ≤ fn) ∨
      (grp ≤ 3 ∧ fmt ≠ 0) ∨
      (grp = 4 ∧ (fn = 0 ∨ fn = 2 ∨ fn = 3) ∧ (fmt = 8 ∨ fmt = 9 ∨ 12 ≤ fmt)) ∨
      (grp = 4 ∧ fn = 1 ∧ 12 ≤ fmt) ∨
      (grp = 4 ∧ fn = 4 ∧ fmt ≠ 8 ∧ fmt ≠ 9) ∨
      (grp = 5 ∧ fn ≤ 3 ∧ 8 ≤ fmt) ∨
      (grp = 5 ∧ fn = 4 ∧ fmt ≠ 8 ∧ fmt ≠ 9) ∨
      (grp = 6 ∧ 12 ≤ fmt)

/-- The example words of R65 decode to the commands R65 names. -/
def Obligations.ExampleWordsDecode : Prop :=
  decode 0x1000#16 = some .addroS ∧ decode 0x1080#16 = some .addroU ∧ decode 0x2000#16 = some .addS ∧
  decode 0x2680#16 = some .divfwU ∧ decode 0x3400#16 = some .shlS ∧ decode 0x3600#16 = some .bswapS ∧
  decode 0x4002#16 = some (.cviExactS .i32) ∧ decode 0x4489#16 = some (.cviRoundU .f64) ∧
  decode 0x5408#16 = some (.cvoFloatS .f32) ∧ decode 0x620B#16 = some (.cmpltS .u24) ∧
  decode 0x6089#16 = some (.cmpeqU .f64) ∧ decode 0x0400#16 = some .bitcastS

/-- R57 and R54: the format and type bits of a command word, on `CMPEQ`, which takes every format, and the codes by
number. -/
def Obligations.FormatCodesAreThoseOfTheTable : Prop :=
  decode 0x6000#16 = some (.cmpeqS .i8) ∧ decode 0x6001#16 = some (.cmpeqS .i16) ∧
  decode 0x6002#16 = some (.cmpeqS .i32) ∧ decode 0x6003#16 = some (.cmpeqS .i64) ∧
  decode 0x6004#16 = some (.cmpeqS .u8) ∧ decode 0x6005#16 = some (.cmpeqS .u16) ∧
  decode 0x6006#16 = some (.cmpeqS .u32) ∧ decode 0x6007#16 = some (.cmpeqS .u64) ∧
  decode 0x6008#16 = some (.cmpeqS .f32) ∧ decode 0x6009#16 = some (.cmpeqS .f64) ∧
  decode 0x600A#16 = some (.cmpeqS .s24) ∧ decode 0x600B#16 = some (.cmpeqS .u24) ∧
  decode 0x6080#16 = some (.cmpeqU .i8) ∧ decode 0x608B#16 = some (.cmpeqU .u24) ∧
  [Fmt.i8, .i16, .i32, .i64, .u8, .u16, .u32, .u64, .f32, .f64, .s24, .u24].map fmtCode = List.range 12 ∧
  tyCode .s24 = 0 ∧ tyCode .u24 = 1

/-! ## Transactions -/

/-- A step that is presented a command runs it, and the host then presents its next transaction. -/
def Obligations.StepRunsTheDecodedCommand : Prop :=
  ∀ (s : State) (w : CmdWord) (i : Instr), Presents s w → decode w = some i →
    ∃ t, exec i s = .next t ∧
      step s = .next { t with inp := s.pending.headD Inputs.idle, pending := s.pending.tail }

/-- A table word that decodes, requested on a running block's ports, is the command the next step runs (log 3 says
what `withFetchWord` stands for). -/
def Obligations.TableWordRunsItsCommand : Prop :=
  ∀ (s : State) (w : Nat) (i : Instr), s.record.fatal = false → decodeTableWord 16 w = some i →
    ∃ t, exec i (s.withFetchWord 16 w) = .next t ∧
      step (s.withFetchWord 16 w) = .next { t with inp := s.pending.headD Inputs.idle, pending := s.pending.tail }

/-- Every step answers a next state, by the first check of R228 that applies (R29). -/
def Obligations.StepFollowsTheCheckOrder : Prop :=
  ∀ s : State, ∃ t : State,
    step s = .next { t with inp := s.pending.headD Inputs.idle, pending := s.pending.tail } ∧
    (s.inp.rst = true →
      t = { s with out := ⟨0#64, 0#32, false, false⟩
                   record := ⟨false, none, 0#16, 0#32, 0#32, 0#32, 0#64⟩ }) ∧
    (s.inp.rst = false → s.inp.req = false → t = { s with out := ⟨0#64, 0#32, false, false⟩ }) ∧
    (s.inp.rst = false → s.inp.req = true → s.record.fatal = true →
      t = { s with out := ⟨0#64, 0#32, false, false⟩ }) ∧
    (s.inp.rst = false → s.inp.req = true → s.record.fatal = false → decode s.inp.cmd = none →
      t = { s with
            out := ⟨0#64, 0#32, false, false⟩
            record := ⟨true, some .illegal, s.inp.cmd, s.inp.a, s.inp.b, s.inp.c, s.inp.x⟩ }) ∧
    (∀ i, s.inp.rst = false → s.inp.req = true → s.record.fatal = false → decode s.inp.cmd = some i →
      exec i s = .next t)

/-- R30: a transaction with `RST` 1 puts the record and the outputs to zero, whatever the other inputs; and the
reset state itself has them zero. -/
def Obligations.ResetClearsTheRecord : Prop :=
  (∀ s : State, s.inp.rst = true → ∃ t : State, step s = .next t ∧
    t.record = ⟨false, none, 0#16, 0#32, 0#32, 0#32, 0#64⟩ ∧ t.out = ⟨0#64, 0#32, false, false⟩ ∧
    t.params = s.params) ∧
  State.reset.record = ⟨false, none, 0#16, 0#32, 0#32, 0#32, 0#64⟩ ∧
  State.reset.out = ⟨0#64, 0#32, false, false⟩

/-- R28: while halted every transaction without `RST` is ignored: no result, and the record is not changed. -/
def Obligations.HaltedIgnoresTransactions : Prop :=
  ∀ s : State, Halted s → s.inp.rst = false → ∃ t : State, step s = .next t ∧
    t.record = s.record ∧ t.out = ⟨0#64, 0#32, false, false⟩ ∧ t.params = s.params

/-- R227, R28: any number of transactions without `RST` leave a halted block halted with the same record. -/
def Obligations.HaltLastsUntilReset : Prop :=
  ∀ (n : Nat) (s : State), Halted s → s.inp.rst = false →
    (∀ p ∈ s.pending, p.rst = false) →
    ∃ t : State, Sys2Proof.core.run n s = .next t ∧ t.record = s.record ∧ t.params = s.params ∧
      (0 < n → t.out = ⟨0#64, 0#32, false, false⟩)

/-- R225 and R228: a reserved word is `ILLEGAL` whatever the operands; nothing of a command is done. -/
def Obligations.ReservedWordIsIllegal : Prop :=
  ∀ (s : State) (w : CmdWord), Presents s w → decode w = none → ∃ t : State, step s = .next t ∧
    t.out = ⟨0#64, 0#32, false, false⟩ ∧ t.params = s.params ∧
    t.record = ⟨true, some .illegal, w, s.inp.a, s.inp.b, s.inp.c, s.inp.x⟩

/-- R226: every command either delivers outputs and changes nothing else, or enters a fatal with exactly the effect
of R226. -/
def Obligations.CommandsDeliverOrEnterAFatal : Prop :=
  ∀ (i : Instr) (s : State), (∃ o, Delivers i s o) ∨ (∃ c, Traps i s c)

/-- R221, R228: a command raises no fatal but its one cause; the others raise none; and the codes are those of the
table. -/
def Obligations.CauseOfEachCommand : Prop :=
  (∀ (i : Instr) (s : State) (c : Cause), i.wellFormed = true → s.record.fatal = false → Traps i s c →
    causeOf i = some c) ∧
  (∀ (s : State) (c : Cause), s.record.fcause = some c →
    (fcausePort s).toNat = match c with
      | .range => 1
      | .shift => 2
      | .overflow => 3
      | .fwdiv => 4
      | .illegal => 5) ∧
  (∀ s : State, s.record.fcause = none → fcausePort s = 0#4)

/-- The machine's invariant is kept by every step, from every state that has it. -/
def Obligations.StepKeepsTheInvariant : Prop :=
  ∀ s t : State, s.wf → step s = .next t → t.wf

/-- A record that explains its halt goes on explaining it, and every halt a step enters is explained. -/
def Obligations.StepKeepsTheRecordExplained : Prop :=
  ∀ s t : State, s.explained → step s = .next t → t.explained

/-- The reset state has both invariants. -/
def Obligations.ResetHasTheInvariants : Prop :=
  State.reset.wf ∧ State.reset.explained

/-- R46, R259: what a transaction drives and records depends on its own inputs, the parameters and the record alone;
and the outputs depend on the record through `FATAL` only. -/
def Obligations.TransactionsAreIndependent : Prop :=
  ∀ s s' t t' : State, s.inp = s'.inp → s.params = s'.params → s.record.fatal = s'.record.fatal →
    step s = .next t → step s' = .next t' →
    t.out = t'.out ∧ t.record.fatal = t'.record.fatal ∧ (s.record = s'.record → t.record = t'.record)

/-- R23, R25, R57, R59: a command's outputs, and whether and why it traps, depend on the ports it reads alone, and
of those on the bits it uses. -/
def Obligations.OnlyTheOperandsMatter : Prop :=
  ∀ (i : Instr) (s s' : State), s.params = s'.params → SameOperands i s.inp s'.inp →
    (∀ o, Delivers i s o → s.record.fatal = false → Delivers i s' o) ∧
    (∀ c, Traps i s c → s.record.fatal = false → Traps i s' c)

/-- R8 and Part 4 of the vectors: two settings give a running block the same outcome, delivered or fatal, for every
command but these, and never the same for these: `SHR.S` of a negative value by a count of 1 to 23 under unlike
`SHR_S_FILL` (R148); `MULRO` under unlike `MUL_OVF_PARTIAL` with a product out of range whose low 24 bits are not zero
(R108, R109); `CVI.ROUND` under unlike `F2I_ROUND` of a tie whose lesser neighbour in magnitude is even, where one of
the two rounded integers is in range (R178, R179). -/
def Obligations.ParametersChangeOneCommandEach : Prop :=
  ∀ (i : Instr) (s : State) (p q : Params), s.record.fatal = false →
    (((∀ o, Delivers i { s with params := p } o ↔ Delivers i { s with params := q } o) ∧
      (∀ c, Traps i { s with params := p } c ↔ Traps i { s with params := q } c)) ↔
    ¬((i = .shrS ∧ p.shrSFill ≠ q.shrSFill ∧ lv .s24 (opA s) < 0 ∧
        0 < (s.inp.x.setWidth 32).toInt ∧ (s.inp.x.setWidth 32).toInt < 24) ∨
      (∃ t : Ty, i = t.pick .mulroS .mulroU ∧ p.mulOvfPartial ≠ q.mulOvfPartial ∧
        ¬InRange t (lv t (opA s) * lv t (opB s)) ∧ ¬(2 ^ 24 ∣ lv t (opA s) * lv t (opB s))) ∨
      (∃ (t : Ty) (f : Fmt) (num : Int) (scale : Nat), i = t.pick (.cviRoundS f) (.cviRoundU f) ∧
        f.isFloat = true ∧ p.f2iRound ≠ q.f2iRound ∧ fdec f s.inp.x = .finite num scale ∧
        (InRange t (rnd .tiesAway num scale) ∨ InRange t (rnd .tiesEven num scale)) ∧
        ∃ j : Int, |(num : ℚ) / 2 ^ scale| = 2 * j + 1 / 2)))

/-! ## Representation primitives -/

/-- R83: the required and the branching form of sign extension agree on every stored word, with the value each sign
gives. -/
def Obligations.SignExtensionFormsAgree : Prop :=
  ∀ w : HostWord, w &&& 0xFF000000#32 = 0#32 →
    (sx24 w = if w &&& 0x00800000#32 ≠ 0#32 then (w ||| 0xFF000000#32).toInt else w.toInt) ∧
    (w.getLsbD 23 = false → sx24 w = (w.toNat : Int) ∧ 0 ≤ sx24 w ∧ sx24 w ≤ 8388607) ∧
    (w.getLsbD 23 = true → sx24 w = (w.toNat : Int) - 2 ^ 24 ∧ sx24 w = (w ||| 0xFF000000#32).toInt ∧
      -8388608 ≤ sx24 w ∧ sx24 w ≤ -1)

/-- R11: `enc` and `lv` are inverse on in-range integers and on stored words, and `canon` keeps bits 23:0 alone. -/
def Obligations.EncodingOfValuesIsExact : Prop :=
  ∀ t : Ty,
    (∀ i : Int, InRange t i → lv t (enc t i) = i ∧ enc t i &&& 0xFF000000#32 = 0#32) ∧
    (∀ w : HostWord, InRange t (lv t (canon w)) ∧ enc t (lv t (canon w)) = canon w ∧
      canon w = (w.setWidth 24).setWidth 32)

/-- R12: `tdiv` rounds toward zero and `trem` is zero or has the dividend's sign, smaller than the divisor. -/
def Obligations.DivisionPrimitives : Prop :=
  ∀ a b : Int, b ≠ 0 →
    tdiv a b = a.sign * b.sign * ⌊(|a| : ℚ) / (|b| : ℚ)⌋ ∧
    trem a b = a - b * tdiv a b ∧ (trem a b = 0 ∨ (trem a b).sign = a.sign) ∧ |trem a b| < |b|

/-- R14, R57: each integer format by the width and the sign of its row of R57: the reading of `X`, the range, and the
output image; every reading lies in the range, and the image of an in-range integer reads as that integer. -/
def Obligations.IntegerFormatsReadByWidthAndSign : Prop :=
  (∀ x : Wide,
    fint .i8 x = (x.setWidth 8).toInt ∧ fint .i16 x = (x.setWidth 16).toInt ∧
    fint .i32 x = (x.setWidth 32).toInt ∧ fint .i64 x = x.toInt ∧
    fint .u8 x = ((x.setWidth 8).toNat : Int) ∧ fint .u16 x = ((x.setWidth 16).toNat : Int) ∧
    fint .u32 x = ((x.setWidth 32).toNat : Int) ∧ fint .u64 x = (x.toNat : Int) ∧
    fint .s24 x = (x.setWidth 24).toInt ∧ fint .s24 x = sx24 (canon (x.setWidth 32)) ∧
    fint .u24 x = ((x.setWidth 24).toNat : Int)) ∧
  fmin .i8 = -128 ∧ fmax .i8 = 127 ∧ fmin .i16 = -32768 ∧ fmax .i16 = 32767 ∧
  fmin .i32 = -2147483648 ∧ fmax .i32 = 2147483647 ∧
  fmin .i64 = -9223372036854775808 ∧ fmax .i64 = 9223372036854775807 ∧
  fmin .u8 = 0 ∧ fmax .u8 = 255 ∧ fmin .u16 = 0 ∧ fmax .u16 = 65535 ∧
  fmin .u32 = 0 ∧ fmax .u32 = 4294967295 ∧ fmin .u64 = 0 ∧ fmax .u64 = 18446744073709551615 ∧
  fmin .s24 = -8388608 ∧ fmax .s24 = 8388607 ∧ fmin .u24 = 0 ∧ fmax .u24 = 16777215 ∧
  (∀ e ∈ [(Fmt.i8, 8), (.i16, 16), (.i32, 32), (.i64, 64), (.u8, 8), (.u16, 16), (.u32, 32), (.u64, 64),
      (.s24, 24), (.u24, 24)],
    fmtWidth e.1 = e.2 ∧ e.1.isInt = true ∧
    ∀ v : Int, fbits e.1 v = (BitVec.ofInt e.2 v).setWidth 64 ∧ ((fbits e.1 v).toNat : Int) = v % 2 ^ e.2) ∧
  (∀ f : Fmt, f.isInt = true →
    (∀ x : Wide, fmin f ≤ fint f x ∧ fint f x ≤ fmax f ∧
      fint f x % 2 ^ fmtWidth f = (x.toNat : Int) % 2 ^ fmtWidth f) ∧
    (∀ v : Int, fmin f ≤ v → v ≤ fmax f → fint f (fbits f v) = v ∧ (fbits f v).toNat < 2 ^ fmtWidth f))

/-! ## Group REP -/

/-- R81, R82, R85, R86: `ZERO`, and the three commands that deliver bits 23:0 of `A` for both types. -/
def Obligations.PatternCommandResults : Prop :=
  decode 0x0000#16 = some .zeroS ∧ decode 0x0080#16 = some .zeroU ∧
  decode 0x0100#16 = some .canonS ∧ decode 0x0180#16 = some .canonU ∧
  decode 0x0300#16 = some .rawS ∧ decode 0x0380#16 = some .rawU ∧
  decode 0x0400#16 = some .bitcastS ∧ decode 0x0480#16 = some .bitcastU ∧
  ∀ s : State,
    let bits := (s.inp.a.setWidth 24).setWidth 64
    Delivers .zeroS s (yOnly 0#64) ∧ Delivers .zeroU s (yOnly 0#64) ∧
    Delivers .canonS s (yOnly bits) ∧ Delivers .canonU s (yOnly bits) ∧
    Delivers .rawS s (yOnly bits) ∧ Delivers .rawU s (yOnly bits) ∧
    Delivers .bitcastS s (yOnly bits) ∧ Delivers .bitcastU s (yOnly bits)

/-- R84, R91: `VALUE` and `WORDS` deliver the sign extension of bits 23:0 for `S24` and the zero extension for
`U24`, in 32 and in 64 bits. -/
def Obligations.LogicalValueResults : Prop :=
  decode 0x0200#16 = some .valueS ∧ decode 0x0280#16 = some .valueU ∧
  decode 0x0700#16 = some .wordsS ∧ decode 0x0780#16 = some .wordsU ∧
  ∀ s : State,
    let pattern := s.inp.a.setWidth 24
    Delivers .valueS s (yOnly ((pattern.signExtend 32).setWidth 64)) ∧
    Delivers .valueU s (yOnly (pattern.setWidth 64)) ∧
    Delivers .wordsS s (yOnly (pattern.signExtend 64)) ∧
    Delivers .wordsU s (yOnly (pattern.setWidth 64))

/-- R88, R89: `MAG` delivers the absolute value as a `U24`; `SIGNUM` delivers -1, 0 or 1 by sign in the type. -/
def Obligations.MagnitudeAndSignResults : Prop :=
  decode 0x0500#16 = some .magS ∧ decode 0x0580#16 = some .magU ∧
  decode 0x0600#16 = some .signumS ∧ decode 0x0680#16 = some .signumU ∧
  ∀ s : State,
    (∃ y : Wide, Delivers .magS s (yOnly y) ∧ (y.toNat : Int) = |lv .s24 (opA s)|) ∧
    Delivers .magU s (yOnly ((opA s).setWidth 64)) ∧
    Delivers .signumS s (yOnly
      (if 0 < lv .s24 (opA s) then 1#64 else if lv .s24 (opA s) < 0 then 0xFFFFFF#64 else 0#64)) ∧
    Delivers .signumU s (yOnly (if 0 < lv .u24 (opA s) then 1#64 else 0#64))

/-- R87: reinterpreting a stored word in the sibling type and back gives it again, in both directions. -/
def Obligations.BitcastRoundTrip : Prop :=
  ∀ (t : Ty) (s u : State), exec (t.pick .bitcastU .bitcastS) s = .next u →
    Delivers (t.pick .bitcastS .bitcastU) { u with inp := { u.inp with a := u.out.y.setWidth 32 } }
      (yOnly ((opA s).setWidth 64))

/-! ## Group ARC -/

/-- R104 to R107: the wrapped sum and difference with the overflow test of each type. -/
def Obligations.CheckedAddSubResults : Prop :=
  decode 0x1000#16 = some .addroS ∧ decode 0x1080#16 = some .addroU ∧
  decode 0x1100#16 = some .subroS ∧ decode 0x1180#16 = some .subroU ∧
  ∀ s : State,
    (let va := lv .s24 (opA s); let vb := lv .s24 (opB s); let r := BitVec.ofInt 24 (va + vb)
     Delivers .addroS s ⟨r.setWidth 64, 0#32, decide ((va < 0 ↔ vb < 0) ∧ ¬(r.toInt < 0 ↔ va < 0)), true⟩) ∧
    (let va := lv .s24 (opA s); let vb := lv .s24 (opB s); let r := BitVec.ofInt 24 (va - vb)
     Delivers .subroS s ⟨r.setWidth 64, 0#32, decide (¬(va < 0 ↔ vb < 0) ∧ ¬(r.toInt < 0 ↔ va < 0)), true⟩) ∧
    (let va := lv .u24 (opA s); let vb := lv .u24 (opB s)
     Delivers .addroU s
      ⟨(BitVec.ofInt 24 (va + vb)).setWidth 64, 0#32, decide (va > 16777215 - vb), true⟩) ∧
    (let va := lv .u24 (opA s); let vb := lv .u24 (opB s)
     Delivers .subroU s ⟨(BitVec.ofInt 24 (va - vb)).setWidth 64, 0#32, decide (va < vb), true⟩)

/-- R108, R109 in the exact-range form: the exact product where it is in range; else the flag with 0, or with the
wrapped product under `MUL_OVF_PARTIAL = wrapped`. -/
def Obligations.CheckedMulResults : Prop :=
  decode 0x1200#16 = some .mulroS ∧ decode 0x1280#16 = some .mulroU ∧
  ∀ (t : Ty) (s : State),
    let p := lv t (opA s) * lv t (opB s)
    (InRange t p → Delivers (t.pick .mulroS .mulroU) s ⟨(enc t p).setWidth 64, 0#32, false, true⟩) ∧
    (¬InRange t p → Delivers (t.pick .mulroS .mulroU) s
      ⟨if s.params.mulOvfPartial = .wrapped then (BitVec.ofInt 24 p).setWidth 64 else 0#64, 0#32, true, true⟩)

/-- R110 to R113: quotient and remainder of the checked forms; a zero divisor, and for `S24` also `MIN_S` by -1,
flag and deliver 0. -/
def Obligations.CheckedDivRemResults : Prop :=
  decode 0x1300#16 = some .divroS ∧ decode 0x1380#16 = some .divroU ∧
  decode 0x1400#16 = some .remroS ∧ decode 0x1480#16 = some .remroU ∧
  ∀ (t : Ty) (s : State),
    let va := lv t (opA s)
    let vb := lv t (opB s)
    let bad := vb = 0 ∨ (t = .s24 ∧ va = -8388608 ∧ vb = -1)
    (bad → Delivers (t.pick .divroS .divroU) s ⟨0#64, 0#32, true, true⟩ ∧
      Delivers (t.pick .remroS .remroU) s ⟨0#64, 0#32, true, true⟩) ∧
    (¬bad → InRange t (tdiv va vb) ∧ InRange t (trem va vb) ∧
      Delivers (t.pick .divroS .divroU) s ⟨(enc t (tdiv va vb)).setWidth 64, 0#32, false, true⟩ ∧
      Delivers (t.pick .remroS .remroU) s ⟨(enc t (trem va vb)).setWidth 64, 0#32, false, true⟩)

/-- R124: the tests of `ADDRO`, `SUBRO`, `MULRO` and `DIVRO` are exactly "the exact result is out of range" (or the
divisor is zero); the test of `REMRO` is that of `DIVRO`, so it is set on `MIN_S % -1` though the remainder 0 is in
range. -/
def Obligations.OverflowIsExactlyOutOfRange : Prop :=
  ∀ (t : Ty) (s : State),
    let va := lv t (opA s)
    let vb := lv t (opB s)
    (addOverflow t va vb = true ↔ ¬InRange t (va + vb)) ∧
    (subOverflow t va vb = true ↔ ¬InRange t (va - vb)) ∧
    (mulOverflow t va vb = true ↔ ¬InRange t (va * vb)) ∧
    (divOverflow t va vb = true ↔ vb = 0 ∨ ¬InRange t (tdiv va vb)) ∧
    (divOverflow t va vb = true ↔ vb = 0 ∨ (t = .s24 ∧ va = -8388608 ∧ vb = -1)) ∧
    (remOverflow t va vb = true ↔ vb = 0 ∨ (t = .s24 ∧ va = -8388608 ∧ vb = -1)) ∧
    (vb ≠ 0 → InRange t (trem va vb))

/-! ## Group ARU -/

/-- R115 to R117: sum, difference and product are delivered when in range. -/
def Obligations.AddSubMulComplete : Prop :=
  ∀ (t : Ty) (s : State),
    let va := lv t (opA s)
    let vb := lv t (opB s)
    (InRange t (va + vb) → Delivers (t.pick .addS .addU) s (yOnly ((enc t (va + vb)).setWidth 64))) ∧
    (InRange t (va - vb) → Delivers (t.pick .subS .subU) s (yOnly ((enc t (va - vb)).setWidth 64))) ∧
    (InRange t (va * vb) → Delivers (t.pick .mulS .mulU) s (yOnly ((enc t (va * vb)).setWidth 64)))

/-- R115 to R117, R224: out of range they enter `Fatal(OVERFLOW)`. -/
def Obligations.AddSubMulTrapOutOfRange : Prop :=
  ∀ (t : Ty) (s : State),
    let va := lv t (opA s)
    let vb := lv t (opB s)
    (¬InRange t (va + vb) → Traps (t.pick .addS .addU) s .overflow) ∧
    (¬InRange t (va - vb) → Traps (t.pick .subS .subU) s .overflow) ∧
    (¬InRange t (va * vb) → Traps (t.pick .mulS .mulU) s .overflow)

/-- R118 to R120: the trapping divisions deliver the truncated quotient and the remainder, or enter
`Fatal(OVERFLOW)` on a zero divisor and, for `S24`, on `MIN_S` by -1; the pair of `DIVREM` satisfies
`va = vb * q + r`. -/
def Obligations.TrappingDivisionResults : Prop :=
  decode 0x2300#16 = some .divS ∧ decode 0x2380#16 = some .divU ∧
  decode 0x2400#16 = some .remS ∧ decode 0x2480#16 = some .remU ∧
  decode 0x2500#16 = some .divremS ∧ decode 0x2580#16 = some .divremU ∧
  ∀ (t : Ty) (s : State),
    let va := lv t (opA s)
    let vb := lv t (opB s)
    let bad := vb = 0 ∨ (t = .s24 ∧ va = -8388608 ∧ vb = -1)
    (¬bad →
      Delivers (t.pick .divS .divU) s (yOnly ((enc t (tdiv va vb)).setWidth 64)) ∧
      Delivers (t.pick .remS .remU) s (yOnly ((enc t (trem va vb)).setWidth 64)) ∧
      Delivers (t.pick .divremS .divremU) s
        ⟨(enc t (tdiv va vb)).setWidth 64, enc t (trem va vb), false, true⟩ ∧
      va = vb * lv t (enc t (tdiv va vb)) + lv t (enc t (trem va vb))) ∧
    (bad → Traps (t.pick .divS .divU) s .overflow ∧ Traps (t.pick .remS .remU) s .overflow ∧
      Traps (t.pick .divremS .divremU) s .overflow)

/-- R114: where the checked form does not overflow the trapping form delivers the same value; where it does, the
trapping form is fatal. -/
def Obligations.CheckedAndTrappingFormsAgree : Prop :=
  ∀ (t : Ty) (s u : State) (ro op : Instr),
    (ro, op) ∈ [(t.pick .addroS .addroU, t.pick .addS .addU), (t.pick .subroS .subroU, t.pick .subS .subU),
      (t.pick .mulroS .mulroU, t.pick .mulS .mulU), (t.pick .divroS .divroU, t.pick .divS .divU),
      (t.pick .remroS .remroU, t.pick .remS .remU)] →
    exec ro s = .next u →
    u.out.valid = true ∧ (u.out.ovf = false → Delivers op s u.out) ∧ (u.out.ovf = true → Traps op s .overflow)

/-- R120: the pair `DIVREM` delivers satisfies `va = vb * q + r`. -/
def Obligations.DivremPairSatisfiesDivision : Prop :=
  ∀ (t : Ty) (s u : State), s.record.fatal = false → exec (t.pick .divremS .divremU) s = .next u →
    u.record.fatal = false →
    lv t (opA s) = lv t (opB s) * lv t (u.out.y.setWidth 32) + lv t u.out.y2 ∧
    |lv t u.out.y2| < |lv t (opB s)|

/-- R121, R122: full-width division delivers quotient and remainder of the 48-bit dividend when the divisor is not
zero and the quotient is in range, and enters `Fatal(FWDIV)` otherwise; the remainder test never fails by itself. -/
def Obligations.FullWidthDivisionResults : Prop :=
  decode 0x2600#16 = some .divfwS ∧ decode 0x2680#16 = some .divfwU ∧
  ∀ (t : Ty) (s : State),
    let n := lv t (opA s) * 16777216 + ((opB s).toNat : Int)
    let d := lv t (opC s)
    (d ≠ 0 → InRange t (tdiv n d) → InRange t (trem n d)) ∧
    (d ≠ 0 → InRange t (tdiv n d) → Delivers (t.pick .divfwS .divfwU) s
      ⟨(enc t (tdiv n d)).setWidth 64, enc t (trem n d), false, true⟩) ∧
    ((d = 0 ∨ ¬InRange t (tdiv n d)) → Traps (t.pick .divfwS .divfwU) s .fwdiv)

/-- R122: unsigned full-width division completes exactly when the high half is below the divisor. -/
def Obligations.UnsignedFullWidthRange : Prop :=
  ∀ s : State,
    ((opA s).toNat < (opC s).toNat → ∃ o, Delivers .divfwU s o ∧ o.valid = true) ∧
    ((opC s).toNat ≤ (opA s).toNat → Traps .divfwU s .fwdiv)

/-- R123: `ISMULT` answers whether an integer `k` exists with `va = k * vb`, and never traps. -/
def Obligations.IsMultipleResults : Prop :=
  decode 0x2700#16 = some .ismultS ∧ decode 0x2780#16 = some .ismultU ∧
  ∀ (t : Ty) (s : State),
    ((∃ k : Int, lv t (opA s) = k * lv t (opB s)) → Delivers (t.pick .ismultS .ismultU) s (yOnly 1#64)) ∧
    ((¬∃ k : Int, lv t (opA s) = k * lv t (opB s)) → Delivers (t.pick .ismultS .ismultU) s (yOnly 0#64))

/-! ## Group BIT -/

/-- R141 to R144: the bitwise commands on the stored patterns, the same for both types, and the logical value of a
complement in each type. -/
def Obligations.BitwiseResults : Prop :=
  decode 0x3000#16 = some .andS ∧ decode 0x3080#16 = some .andU ∧
  decode 0x3100#16 = some .orS ∧ decode 0x3180#16 = some .orU ∧
  decode 0x3200#16 = some .xorS ∧ decode 0x3280#16 = some .xorU ∧
  decode 0x3300#16 = some .notS ∧ decode 0x3380#16 = some .notU ∧
  ∀ (t : Ty) (s : State),
    let a := s.inp.a.setWidth 24
    let b := s.inp.b.setWidth 24
    Delivers (t.pick .andS .andU) s (yOnly ((a &&& b).setWidth 64)) ∧
    Delivers (t.pick .orS .orU) s (yOnly ((a ||| b).setWidth 64)) ∧
    Delivers (t.pick .xorS .xorU) s (yOnly ((a ^^^ b).setWidth 64)) ∧
    Delivers (t.pick .notS .notU) s (yOnly ((~~~a).setWidth 64)) ∧
    lv .s24 ((~~~a).setWidth 32) = -lv .s24 (opA s) - 1 ∧ lv .u24 ((~~~a).setWidth 32) = 16777215 - lv .u24 (opA s)

/-- R144: the logical value of a complement is `-v - 1` in `S24` and `MAX_U - v` in `U24`. -/
def Obligations.NotLogicalValue : Prop :=
  ∀ s u : State,
    (exec .notS s = .next u → lv .s24 (u.out.y.setWidth 32) = -lv .s24 (opA s) - 1) ∧
    (exec .notU s = .next u → lv .u24 (u.out.y.setWidth 32) = 16777215 - lv .u24 (opA s))

/-- R145, R147, R148: with a count in `[0, 24)` a left shift multiplies modulo `2^24` and a right shift divides,
rounding down: the stored pattern, or under `SHR_S_FILL = sign` the value of an `S24`. -/
def Obligations.ShiftResults : Prop :=
  decode 0x3400#16 = some .shlS ∧ decode 0x3480#16 = some .shlU ∧
  decode 0x3500#16 = some .shrS ∧ decode 0x3580#16 = some .shrU ∧
  ∀ (s : State) (n : Nat), n < 24 → (s.inp.x.setWidth 32).toInt = (n : Int) →
    let shifted := BitVec.ofNat 64 ((opA s).toNat * 2 ^ n % 2 ^ 24)
    let halved := BitVec.ofNat 64 ((opA s).toNat / 2 ^ n)
    Delivers .shlS s (yOnly shifted) ∧ Delivers .shlU s (yOnly shifted) ∧
    Delivers .shrU s (yOnly halved) ∧
    (s.params.shrSFill = .zero → Delivers .shrS s (yOnly halved)) ∧
    (s.params.shrSFill = .sign →
      Delivers .shrS s (yOnly ((enc .s24 ⌊(lv .s24 (opA s) : ℚ) / 2 ^ n⌋).setWidth 64)))

/-- R145, R223: a count that is negative or at least 24 enters `Fatal(SHIFT)`. -/
def Obligations.ShiftCountOutOfRangeTraps : Prop :=
  ∀ s : State, (s.inp.x.setWidth 32).toInt < 0 ∨ 24 ≤ (s.inp.x.setWidth 32).toInt →
    Traps .shlS s .shift ∧ Traps .shlU s .shift ∧ Traps .shrS s .shift ∧ Traps .shrU s .shift

/-- R150: bytes 0 and 2 change places, byte 1 stays, and swapping twice is the identity. -/
def Obligations.ByteSwapResults : Prop :=
  decode 0x3600#16 = some .bswapS ∧ decode 0x3680#16 = some .bswapU ∧
  ∀ (t : Ty) (s : State), ∃ y : Wide,
    Delivers (t.pick .bswapS .bswapU) s (yOnly y) ∧
    y.extractLsb' 16 8 = s.inp.a.extractLsb' 0 8 ∧ y.extractLsb' 8 8 = s.inp.a.extractLsb' 8 8 ∧
    y.extractLsb' 0 8 = s.inp.a.extractLsb' 16 8 ∧ y.extractLsb' 24 40 = 0#40 ∧
    Delivers (t.pick .bswapS .bswapU) { s with inp := { s.inp with a := y.setWidth 32 } }
      (yOnly ((s.inp.a.setWidth 24).setWidth 64))

/-- R151 to R154: the three counts within 24 bits, each by what the count means. -/
def Obligations.BitCountResults : Prop :=
  decode 0x3700#16 = some .popcntS ∧ decode 0x3780#16 = some .popcntU ∧
  decode 0x3800#16 = some .clzS ∧ decode 0x3880#16 = some .clzU ∧
  decode 0x3900#16 = some .ctzS ∧ decode 0x3980#16 = some .ctzU ∧
  ∀ (t : Ty) (s : State),
    let a := (opA s).toNat
    Delivers (t.pick .popcntS .popcntU) s (yOnly (BitVec.ofNat 64
      (Finset.univ.filter fun k : Fin 24 => s.inp.a.getLsbD k = true).card)) ∧
    (∃ n ≤ 24, Delivers (t.pick .clzS .clzU) s (yOnly (BitVec.ofNat 64 n)) ∧
      a < 2 ^ (24 - n) ∧ (n < 24 → 2 ^ (23 - n) ≤ a)) ∧
    (∃ n ≤ 24, Delivers (t.pick .ctzS .ctzU) s (yOnly (BitVec.ofNat 64 n)) ∧
      2 ^ n ∣ a ∧ (n = 24 → a = 0) ∧ (n < 24 → a / 2 ^ n % 2 = 1))

/-! ## Group CVI -/

/-- R174, R176, R177: the three policies that take integer formats only. -/
def Obligations.InboundIntegerConversions : Prop :=
  ∀ (t : Ty) (f : Fmt), f.isInt = true →
    decode (0x4000#16 + BitVec.ofNat 16 (tyCode t * 128 + fmtCode f)) = some (t.pick (.cviExactS f) (.cviExactU f)) ∧
    decode (0x4200#16 + BitVec.ofNat 16 (tyCode t * 128 + fmtCode f)) = some (t.pick (.cviTruncS f) (.cviTruncU f)) ∧
    decode (0x4300#16 + BitVec.ofNat 16 (tyCode t * 128 + fmtCode f)) = some (t.pick (.cviClampS f) (.cviClampU f)) ∧
    ∀ s : State,
      let v := fint f s.inp.x
      (InRange t v → Delivers (t.pick (.cviExactS f) (.cviExactU f)) s (yOnly ((enc t v).setWidth 64))) ∧
      (¬InRange t v → Traps (t.pick (.cviExactS f) (.cviExactU f)) s .range) ∧
      Delivers (t.pick (.cviTruncS f) (.cviTruncU f)) s (yOnly ((BitVec.ofInt 24 v).setWidth 64)) ∧
      (24 ≤ fmtWidth f →
        Delivers (t.pick (.cviTruncS f) (.cviTruncU f)) s (yOnly ((s.inp.x.setWidth 24).setWidth 64))) ∧
      Delivers (t.pick (.cviClampS f) (.cviClampU f)) s
        (yOnly ((enc t (max (minOf t) (min (maxOf t) v))).setWidth 64))

/-- R175: the fallible policy, from an integer and from a float, by the exact value of the source. -/
def Obligations.FallibleInboundConversion : Prop :=
  ∀ (t : Ty) (f : Fmt),
    decode (0x4100#16 + BitVec.ofNat 16 (tyCode t * 128 + fmtCode f)) =
      some (t.pick (.cviExactlyS f) (.cviExactlyU f)) ∧
    ∀ s : State,
      let i := t.pick (.cviExactlyS f) (.cviExactlyU f)
      let noResult := (⟨0#64, 0#32, false, false⟩ : Outputs)
      (f.isInt = true → InRange t (fint f s.inp.x) →
        Delivers i s (yOnly ((enc t (fint f s.inp.x)).setWidth 64))) ∧
      (f.isInt = true → ¬InRange t (fint f s.inp.x) → Delivers i s noResult) ∧
      (f.isFloat = true → ∀ (num : Int) (scale : Nat), fdec f s.inp.x = .finite num scale →
        (∀ v : Int, (v : ℚ) = num / 2 ^ scale → InRange t v → Delivers i s (yOnly ((enc t v).setWidth 64))) ∧
        ((¬∃ v : Int, (v : ℚ) = num / 2 ^ scale ∧ InRange t v) → Delivers i s noResult)) ∧
      (f.isFloat = true → fdec f s.inp.x = .posInf ∨ fdec f s.inp.x = .negInf ∨ fdec f s.inp.x = .nan →
        Delivers i s noResult)

/-- R176: truncating a truncated value again, in the type's own format, gives the same stored word. -/
def Obligations.TruncationIsIdempotent : Prop :=
  ∀ (t : Ty) (f : Fmt) (s u : State), f.isInt = true →
    exec (t.pick (.cviTruncS f) (.cviTruncU f)) s = .next u →
    Delivers (t.pick (.cviTruncS .s24) (.cviTruncU .u24)) { u with inp := { u.inp with x := u.out.y } } u.out

/-- R171: the fields of a binary32 or binary64 operand and the exact rational they stand for. -/
def Obligations.FloatDecoding : Prop :=
  ∀ x : Wide,
    (let sgn : ℚ := if x.getLsbD 31 then -1 else 1
     let e := (x.extractLsb' 23 8).toNat
     let m := (x.extractLsb' 0 23).toNat
     (e = 255 → m ≠ 0 → fdec .f32 x = .nan) ∧
     (e = 255 → m = 0 → fdec .f32 x = if x.getLsbD 31 then .negInf else .posInf) ∧
     (e = 0 → ∃ num scale, fdec .f32 x = .finite num scale ∧
       (num : ℚ) / 2 ^ scale = sgn * m * (2 : ℚ) ^ (-149 : ℤ)) ∧
     (e ≠ 0 → e ≠ 255 → ∃ num scale, fdec .f32 x = .finite num scale ∧
       (num : ℚ) / 2 ^ scale = sgn * (2 ^ 23 + m) * (2 : ℚ) ^ ((e : ℤ) - 150))) ∧
    (let sgn : ℚ := if x.getLsbD 63 then -1 else 1
     let e := (x.extractLsb' 52 11).toNat
     let m := (x.extractLsb' 0 52).toNat
     (e = 2047 → m ≠ 0 → fdec .f64 x = .nan) ∧
     (e = 2047 → m = 0 → fdec .f64 x = if x.getLsbD 63 then .negInf else .posInf) ∧
     (e = 0 → ∃ num scale, fdec .f64 x = .finite num scale ∧
       (num : ℚ) / 2 ^ scale = sgn * m * (2 : ℚ) ^ (-1074 : ℤ)) ∧
     (e ≠ 0 → e ≠ 2047 → ∃ num scale, fdec .f64 x = .finite num scale ∧
       (num : ℚ) / 2 ^ scale = sgn * (2 ^ 52 + m) * (2 : ℚ) ^ ((e : ℤ) - 1075)))

/-- R179: both settings round to the nearest integer; `ties_away` is `sign(q) * floor(|q| + 1/2)` and a tie under
`ties_even` goes to the even integer. -/
def Obligations.RoundingToNearest : Prop :=
  ∀ (num : Int) (scale : Nat),
    let q : ℚ := num / 2 ^ scale
    rnd .tiesAway num scale = num.sign * ⌊|q| + 1 / 2⌋ ∧
    |(rnd .tiesEven num scale : ℚ) - q| ≤ 1 / 2 ∧
    (|(rnd .tiesEven num scale : ℚ) - q| = 1 / 2 → 2 ∣ rnd .tiesEven num scale)

/-- R178: a float is rounded by R179 and delivered when the rounded integer is in range; a rounded integer out of
range, NaN and the infinities enter `Fatal(RANGE)`. -/
def Obligations.RoundingConversion : Prop :=
  ∀ (t : Ty) (f : Fmt), f.isFloat = true →
    decode (0x4400#16 + BitVec.ofNat 16 (tyCode t * 128 + fmtCode f)) = some (t.pick (.cviRoundS f) (.cviRoundU f)) ∧
    ∀ s : State,
      let i := t.pick (.cviRoundS f) (.cviRoundU f)
      (∀ num scale, fdec f s.inp.x = .finite num scale → InRange t (rnd s.params.f2iRound num scale) →
        Delivers i s (yOnly ((enc t (rnd s.params.f2iRound num scale)).setWidth 64))) ∧
      (∀ num scale, fdec f s.inp.x = .finite num scale → ¬InRange t (rnd s.params.f2iRound num scale) →
        Traps i s .range) ∧
      (fdec f s.inp.x = .posInf ∨ fdec f s.inp.x = .negInf ∨ fdec f s.inp.x = .nan → Traps i s .range)

/-! ## Group CVO -/

/-- R181 to R184: the four integer policies onto a native integer format. -/
def Obligations.OutboundIntegerConversions : Prop :=
  ∀ (t : Ty) (f : Fmt), f.isNativeInt = true →
    decode (0x5000#16 + BitVec.ofNat 16 (tyCode t * 128 + fmtCode f)) = some (t.pick (.cvoExactS f) (.cvoExactU f)) ∧
    decode (0x5100#16 + BitVec.ofNat 16 (tyCode t * 128 + fmtCode f)) =
      some (t.pick (.cvoExactlyS f) (.cvoExactlyU f)) ∧
    decode (0x5200#16 + BitVec.ofNat 16 (tyCode t * 128 + fmtCode f)) = some (t.pick (.cvoTruncS f) (.cvoTruncU f)) ∧
    decode (0x5300#16 + BitVec.ofNat 16 (tyCode t * 128 + fmtCode f)) = some (t.pick (.cvoClampS f) (.cvoClampU f)) ∧
    ∀ s : State,
      let v := lv t (opA s)
      (fmin f ≤ v ∧ v ≤ fmax f →
        Delivers (t.pick (.cvoExactS f) (.cvoExactU f)) s (yOnly (fbits f v)) ∧
        Delivers (t.pick (.cvoExactlyS f) (.cvoExactlyU f)) s (yOnly (fbits f v))) ∧
      (¬(fmin f ≤ v ∧ v ≤ fmax f) →
        Traps (t.pick (.cvoExactS f) (.cvoExactU f)) s .range ∧
        Delivers (t.pick (.cvoExactlyS f) (.cvoExactlyU f)) s ⟨0#64, 0#32, false, false⟩) ∧
      Delivers (t.pick (.cvoTruncS f) (.cvoTruncU f)) s (yOnly ((BitVec.ofInt (fmtWidth f) v).setWidth 64)) ∧
      Delivers (t.pick (.cvoClampS f) (.cvoClampU f)) s (yOnly (fbits f (max (fmin f) (min (fmax f) v))))

/-- R172, R185: `CVO.FLOAT` completes for every value with the fields of R172. -/
def Obligations.FloatEncoding : Prop :=
  ∀ t : Ty,
    decode (0x5408#16 + BitVec.ofNat 16 (tyCode t * 128)) = some (t.pick (.cvoFloatS .f32) (.cvoFloatU .f32)) ∧
    decode (0x5409#16 + BitVec.ofNat 16 (tyCode t * 128)) = some (t.pick (.cvoFloatS .f64) (.cvoFloatU .f64)) ∧
    ∀ s : State,
      let v := lv t (opA s)
      let g := v.natAbs
      (v = 0 → Delivers (t.pick (.cvoFloatS .f32) (.cvoFloatU .f32)) s (yOnly 0#64) ∧
        Delivers (t.pick (.cvoFloatS .f64) (.cvoFloatU .f64)) s (yOnly 0#64)) ∧
      (∀ k : Nat, 2 ^ k ≤ g → g < 2 ^ (k + 1) →
        (∃ y : Wide, Delivers (t.pick (.cvoFloatS .f32) (.cvoFloatU .f32)) s (yOnly y) ∧
          y.toNat = (if v < 0 then 2 ^ 31 else 0) + (k + 127) * 2 ^ 23 + (g - 2 ^ k) * 2 ^ (23 - k)) ∧
        (∃ y : Wide, Delivers (t.pick (.cvoFloatS .f64) (.cvoFloatU .f64)) s (yOnly y) ∧
          y.toNat = (if v < 0 then 2 ^ 63 else 0) + (k + 1023) * 2 ^ 52 + (g - 2 ^ k) * 2 ^ (52 - k)))

/-- R185: every 24-bit value survives the trip to a floating format and back. -/
def Obligations.FloatRoundTrip : Prop :=
  ∀ (t : Ty) (f : Fmt) (s u : State), f.isFloat = true →
    exec (t.pick (.cvoFloatS f) (.cvoFloatU f)) s = .next u →
    Delivers (t.pick (.cviExactlyS f) (.cviExactlyU f)) { u with inp := { u.inp with x := u.out.y } }
      (yOnly ((opA s).setWidth 64))

/-! ## Group CMP -/

/-- R201, R203 to R208: against an integer format the six commands compare the two mathematical integers. -/
def Obligations.IntegerComparisons : Prop :=
  ∀ (t : Ty) (f : Fmt) (s : State), f.isInt = true →
    let l := lv t (opA s)
    let r := fint f s.inp.x
    Delivers (t.pick (.cmpeqS f) (.cmpeqU f)) s (yBool (l = r)) ∧
    Delivers (t.pick (.cmpneS f) (.cmpneU f)) s (yBool (l ≠ r)) ∧
    Delivers (t.pick (.cmpltS f) (.cmpltU f)) s (yBool (l < r)) ∧
    Delivers (t.pick (.cmpleS f) (.cmpleU f)) s (yBool (l ≤ r)) ∧
    Delivers (t.pick (.cmpgtS f) (.cmpgtU f)) s (yBool (l > r)) ∧
    Delivers (t.pick (.cmpgeS f) (.cmpgeU f)) s (yBool (l ≥ r))

/-- R202: against a floating format they compare the integer with the exact rational; an infinity lies beyond every
integer, and with NaN only `CMPNE` is 1. -/
def Obligations.FloatComparisons : Prop :=
  ∀ (t : Ty) (f : Fmt) (s : State), f.isFloat = true →
    let l := lv t (opA s)
    let eq := t.pick (.cmpeqS f) (.cmpeqU f)
    let ne := t.pick (.cmpneS f) (.cmpneU f)
    let lt := t.pick (.cmpltS f) (.cmpltU f)
    let le := t.pick (.cmpleS f) (.cmpleU f)
    let gt := t.pick (.cmpgtS f) (.cmpgtU f)
    let ge := t.pick (.cmpgeS f) (.cmpgeU f)
    (∀ num scale, fdec f s.inp.x = .finite num scale →
      let q : ℚ := num / 2 ^ scale
      Delivers eq s (yBool ((l : ℚ) = q)) ∧ Delivers ne s (yBool ((l : ℚ) ≠ q)) ∧
      Delivers lt s (yBool ((l : ℚ) < q)) ∧ Delivers le s (yBool ((l : ℚ) ≤ q)) ∧
      Delivers gt s (yBool ((l : ℚ) > q)) ∧ Delivers ge s (yBool ((l : ℚ) ≥ q))) ∧
    (fdec f s.inp.x = .posInf →
      Delivers eq s (yOnly 0#64) ∧ Delivers ne s (yOnly 1#64) ∧ Delivers lt s (yOnly 1#64) ∧
      Delivers le s (yOnly 1#64) ∧ Delivers gt s (yOnly 0#64) ∧ Delivers ge s (yOnly 0#64)) ∧
    (fdec f s.inp.x = .negInf →
      Delivers eq s (yOnly 0#64) ∧ Delivers ne s (yOnly 1#64) ∧ Delivers lt s (yOnly 0#64) ∧
      Delivers le s (yOnly 0#64) ∧ Delivers gt s (yOnly 1#64) ∧ Delivers ge s (yOnly 1#64)) ∧
    (fdec f s.inp.x = .nan →
      Delivers eq s (yOnly 0#64) ∧ Delivers ne s (yOnly 1#64) ∧ Delivers lt s (yOnly 0#64) ∧
      Delivers le s (yOnly 0#64) ∧ Delivers gt s (yOnly 0#64) ∧ Delivers ge s (yOnly 0#64))

/-- R209: `CMPxx.S.U24 (a, x)` and the mirrored relation `CMPyy.U.S24 (x, a)` agree. -/
def Obligations.SiblingComparisonsMirror : Prop :=
  ∀ s : State,
    let m : State := { s with inp := { s.inp with a := s.inp.x.setWidth 32, x := s.inp.a.setWidth 64 } }
    ∀ p : Wide,
      (Delivers (.cmpeqS .u24) s (yOnly p) ↔ Delivers (.cmpeqU .s24) m (yOnly p)) ∧
      (Delivers (.cmpneS .u24) s (yOnly p) ↔ Delivers (.cmpneU .s24) m (yOnly p)) ∧
      (Delivers (.cmpltS .u24) s (yOnly p) ↔ Delivers (.cmpgtU .s24) m (yOnly p)) ∧
      (Delivers (.cmpleS .u24) s (yOnly p) ↔ Delivers (.cmpgeU .s24) m (yOnly p)) ∧
      (Delivers (.cmpgtS .u24) s (yOnly p) ↔ Delivers (.cmpltU .s24) m (yOnly p)) ∧
      (Delivers (.cmpgeS .u24) s (yOnly p) ↔ Delivers (.cmpleU .s24) m (yOnly p))

/-! ## Pseudo-instructions -/

/-- R68: a literal in range of the type and its minimum and maximum constants assemble to a transaction that
delivers the stored word of that number, and a literal out of range to one that enters `Fatal(RANGE)`; a floating
literal, as its binary64 pattern, is rounded by R179 and delivered in range, and enters `Fatal(RANGE)` out of range, as
NaN and the infinities do. How a literal is held is the model's choice (log 6), and an integer that port `X` cannot
carry in `I64` is no literal of it. -/
def Obligations.LiteralsDeliverTheirNumber : Prop :=
  ∀ (t : Ty) (s : State),
    (∀ i : Int, InRange t i → ∃ p, assemblePseudo (.lit t) [.int i] = some p ∧
      ∃ c, decode p.cmd = some c ∧ Delivers c { s with inp := p } (yOnly ((enc t i).setWidth 64))) ∧
    (∀ i : Int, ¬InRange t i → -9223372036854775808 ≤ i → i ≤ 9223372036854775807 →
      ∃ p, assemblePseudo (.lit t) [.int i] = some p ∧
        ∃ c, decode p.cmd = some c ∧ Traps c { s with inp := p } .range) ∧
    (∃ p, assemblePseudo (.minConst t) [] = some p ∧ ∃ c, decode p.cmd = some c ∧
      Delivers c { s with inp := p } (yOnly (t.pick 0x800000#64 0#64))) ∧
    (∃ p, assemblePseudo (.maxConst t) [] = some p ∧ ∃ c, decode p.cmd = some c ∧
      Delivers c { s with inp := p } (yOnly (t.pick 0x7FFFFF#64 0xFFFFFF#64))) ∧
    (∀ x : Wide, ∃ p, assemblePseudo (.flit t) [.bits x] = some p ∧ p.x = x ∧ ∃ c, decode p.cmd = some c ∧
      (∀ num scale, fdec .f64 x = .finite num scale →
        (InRange t (rnd s.params.f2iRound num scale) →
          Delivers c { s with inp := p } (yOnly ((enc t (rnd s.params.f2iRound num scale)).setWidth 64))) ∧
        (¬InRange t (rnd s.params.f2iRound num scale) → Traps c { s with inp := p } .range)) ∧
      (fdec .f64 x = .posInf ∨ fdec .f64 x = .negInf ∨ fdec .f64 x = .nan → Traps c { s with inp := p } .range))

/-- R67: a comparison written with the foreign operand on the left answers the written relation of the two values, for
every format: of the exact values of an integer or a finite float, and on each infinity and NaN as the list gives (an
infinity lies beyond every integer, and with NaN only `!=` holds). How a source is held is the model's choice
(log 6). -/
def Obligations.ReversedComparisonsAnswerTheWrittenRelation : Prop :=
  ∀ (t : Ty) (f : Fmt) (s : State) (x : Wide) (a : HostWord) (ps : Pseudo) (rel : ℚ → ℚ → Bool)
    (onPosInf onNegInf onNan : Bool),
    (ps, rel, onPosInf, onNegInf, onNan) ∈
      [(Pseudo.foreignLt t f, fun u v => decide (u < v), false, true, false),
        (.foreignLe t f, fun u v => decide (u ≤ v), false, true, false),
        (.foreignGt t f, fun u v => decide (u > v), true, false, false),
        (.foreignGe t f, fun u v => decide (u ≥ v), true, false, false),
        (.foreignEq t f, fun u v => decide (u = v), false, false, false),
        (.foreignNe t f, fun u v => decide (u ≠ v), true, true, true)] →
    let l : ℚ := lv t (canon a)
    ∃ p c, assemblePseudo ps [.bits x, .bits (a.setWidth 64)] = some p ∧ p.x = x ∧ p.a = a ∧ decode p.cmd = some c ∧
      (f.isInt = true → Delivers c { s with inp := p } (yBool (rel (fint f x) l))) ∧
      (f.isFloat = true → ∀ num scale, fdec f x = .finite num scale →
        Delivers c { s with inp := p } (yBool (rel (num / 2 ^ scale) l))) ∧
      (f.isFloat = true → fdec f x = .posInf → Delivers c { s with inp := p } (yBool onPosInf)) ∧
      (f.isFloat = true → fdec f x = .negInf → Delivers c { s with inp := p } (yBool onNegInf)) ∧
      (f.isFloat = true → fdec f x = .nan → Delivers c { s with inp := p } (yBool onNan))
end

