-- ==== Sys2Proof/Laws/Assembler.lean ====
section
/-! SUPPORT. What the line syntax and the pseudo-instructions assemble to. -/

namespace Sys2Proof.Machine

/-- A 32-bit pattern is a source of every value port. -/
@[simp] theorem valueSource_bits (t : Ty) (w : HostWord) : valueSource t (.bits (w.setWidth 64)) = some w := by
  have h : (w.setWidth 64).toNat < 2 ^ 32 := by
    have := w.isLt
    simp only [BitVec.toNat_setWidth]
    omega
  exact (if_pos h).trans (by simp)

@[simp] theorem foreignSource_bits (f : Fmt) (x : Wide) : foreignSource f (.bits x) = some x := rfl

theorem foreignSource_int {f : Fmt} {i : Int} (hf : f.isInt = true) (h : Fits f i) :
    foreignSource f (.int i) = some (fbits f i) := if_pos ⟨hf, h⟩

/-- R67: a comparison with the foreign operand on the left puts it on `X` and the 24-bit value on `A`. -/
theorem assemblePseudo_foreign {t : Ty} {f : Fmt} {ps : Pseudo} (x : Wide) (a : HostWord)
    (h : ps ∈ [Pseudo.foreignLt t f, .foreignLe t f, .foreignGt t f, .foreignGe t f, .foreignEq t f, .foreignNe t f]) :
    assemblePseudo ps [.bits x, .bits (a.setWidth 64)] =
      some ⟨false, true, encode (expandPseudo ps), a, 0#32, 0#32, x⟩ := by
  simp only [List.mem_cons, List.not_mem_nil, or_false] at h
  rcases h with rfl | rfl | rfl | rfl | rfl | rfl <;> cases t <;> cases f <;>
  · simp only [assemblePseudo, expandSources, expandPseudo, Ty.pick, assemble, portsRead, takeValue, takeForeign,
      fmtWidth, valueSource_bits, Option.map_some]
    rfl

/-- R68: an integer literal that `I64` holds is put on `X` in that format. -/
theorem assemblePseudo_lit (t : Ty) {i : Int} (h : Fits .i64 i) :
    assemblePseudo (.lit t) [.int i] =
      some ⟨false, true, encode (expandPseudo (.lit t)), 0#32, 0#32, 0#32, fbits .i64 i⟩ := by
  have hx := foreignSource_int (f := .i64) rfl h
  cases t <;>
  · show (match takeForeign true .i64 [.int i] with
      | none => none
      | some (x, s4) => if s4 = [] then some _ else none) = _
    simp only [takeForeign, hx]
    rfl

/-- R68: a floating literal, as its pattern, is put on `X`. -/
theorem assemblePseudo_flit (t : Ty) (x : Wide) :
    assemblePseudo (.flit t) [.bits x] =
      some ⟨false, true, encode (expandPseudo (.flit t)), 0#32, 0#32, 0#32, x⟩ := by
  cases t <;> rfl

/-- The word of a literal decodes to the command it is issued as. -/
theorem decode_expandPseudo_lit (t : Ty) :
    decode (encode (expandPseudo (.lit t))) = some (expandPseudo (.lit t)) ∧
    decode (encode (expandPseudo (.flit t))) = some (expandPseudo (.flit t)) := by
  cases t <;> exact ⟨rfl, rfl⟩

theorem decode_expandPseudo_foreign {t : Ty} {f : Fmt} {ps : Pseudo}
    (h : ps ∈ [Pseudo.foreignLt t f, .foreignLe t f, .foreignGt t f, .foreignGe t f, .foreignEq t f, .foreignNe t f]) :
    decode (encode (expandPseudo ps)) = some (expandPseudo ps) := by
  simp only [List.mem_cons, List.not_mem_nil, or_false] at h
  rcases h with rfl | rfl | rfl | rfl | rfl | rfl <;> cases t <;> cases f <;> rfl

end Sys2Proof.Machine
end

