-- ==== Sys2Proof/Laws/Operands.lean ====
section
/-! SUPPORT. The representation primitives in the library's terms: stored words as 24-bit vectors, `tdiv` and `trem`
as the library's truncating division. -/

namespace Sys2Proof.Machine

theorem canon_eq_setWidth (w : HostWord) : canon w = (w.setWidth 24).setWidth 32 := by
  ext i hi
  by_cases h : i < 24
  · have hm : mask.getLsbD i = true := by
      have : ∀ j : Fin 24, mask.getLsbD j = true := by decide
      exact this ⟨i, h⟩
    simp [canon, BitVec.getLsbD_setWidth, h, hi, ← BitVec.getLsbD_eq_getElem, hm]
  · have hm : mask.getLsbD i = false := by
      have : ∀ j : Fin 8, mask.getLsbD (j + 24) = false := by decide
      have h2 := this ⟨i - 24, by omega⟩
      simpa [Nat.sub_add_cancel (Nat.le_of_not_lt h)] using h2
    simp [canon, BitVec.getLsbD_setWidth, h, hi, ← BitVec.getLsbD_eq_getElem, hm]

theorem canon_toNat (w : HostWord) : (canon w).toNat = w.toNat % 2 ^ 24 := by
  rw [canon_eq_setWidth]
  simp only [BitVec.toNat_setWidth]
  omega

theorem canon_lt (w : HostWord) : (canon w).toNat < 2 ^ 24 := by
  rw [canon_toNat]; exact Nat.mod_lt _ (by decide)

@[simp] theorem canon_setWidth24 (w : HostWord) : (canon w).setWidth 24 = w.setWidth 24 := by
  apply BitVec.eq_of_toNat_eq
  simp only [BitVec.toNat_setWidth, canon_toNat]
  omega

@[simp] theorem wrap_toNat (t : Ty) (i : Int) : ((wrap t i).toNat : Int) = i % 2 ^ 24 := by
  simp only [wrap, BitVec.toNat_setWidth, BitVec.toNat_ofInt]
  omega

@[simp] theorem canon_wrap (t : Ty) (i : Int) : canon (wrap t i) = wrap t i := by
  simp only [canon_eq_setWidth, wrap]
  apply BitVec.eq_of_toNat_eq
  simp only [BitVec.toNat_setWidth]
  omega

@[simp] theorem wrap_setWidth24 (t : Ty) (i : Int) : (wrap t i).setWidth 24 = BitVec.ofInt 24 i := by
  apply BitVec.eq_of_toNat_eq
  simp only [wrap, BitVec.toNat_setWidth]
  omega

theorem xor_signBit_toNat (b : BitVec 24) :
    (b ^^^ 0x800000#24).toNat = (b.toNat + 2 ^ 23) % 2 ^ 24 := by
  apply Nat.eq_of_testBit_eq
  intro i
  rw [Nat.add_comm, Nat.testBit_mod_two_pow]
  have hc : 0x800000 % 2 ^ 24 = 2 ^ 23 := by decide
  simp only [BitVec.toNat_xor, BitVec.toNat_ofNat, Nat.testBit_xor, hc, Nat.testBit_two_pow]
  rcases Nat.lt_trichotomy i 23 with hi | rfl | hi
  · rw [Nat.testBit_two_pow_add_gt hi]
    have h1 : ¬ 23 = i := by omega
    have h2 : i < 24 := by omega
    simp [h1, h2]
  · rw [Nat.testBit_two_pow_add_eq]
    simp
  · have h1 : b.toNat < 2 ^ i := lt_of_lt_of_le b.isLt (Nat.pow_le_pow_right (by decide) hi)
    have h2 : ¬ 23 = i := by omega
    have h3 : ¬ i < 24 := by omega
    simp [Nat.testBit_lt_two_pow h1, h2, h3]

/-- The signed reading of a stored word is the library's two's complement of its 24 bits. -/
theorem lv_s24_canon (w : HostWord) : lv .s24 (canon w) = (w.setWidth 24).toInt := by
  have e : canon w ^^^ signBit = (w.setWidth 24 ^^^ 0x800000#24).setWidth 32 := by
    rw [canon_eq_setWidth, BitVec.setWidth_xor]; rfl
  simp only [lv, sx24, e, BitVec.toNat_setWidth, xor_signBit_toNat, BitVec.toInt_eq_toNat_cond]
  rw [show signBit.toNat = 2 ^ 23 by decide]
  split <;> omega

/-- The unsigned reading of a stored word is the number of its 24 bits. -/
theorem lv_u24_canon (w : HostWord) : lv .u24 (canon w) = (w.setWidth 24).toNat := by
  simp only [lv, canon_toNat, BitVec.toNat_setWidth]

/-- In either type the logical value is the stored word's number modulo `2^24`. -/
theorem lv_canon_emod (t : Ty) (w : HostWord) : lv t (canon w) % 2 ^ 24 = ((canon w).toNat : Int) := by
  have hc := canon_toNat w
  cases t
  · rw [lv_s24_canon, BitVec.toInt_eq_toNat_cond]
    simp only [BitVec.toNat_setWidth]
    split <;> omega
  · rw [lv_u24_canon]
    simp only [BitVec.toNat_setWidth]
    omega

theorem lv_s24_wrap (t : Ty) (i : Int) : lv .s24 (wrap t i) = i.bmod (2 ^ 24) := by
  rw [← canon_wrap, lv_s24_canon, wrap_setWidth24, BitVec.toInt_ofInt]

theorem lv_u24_wrap (t : Ty) (i : Int) : lv .u24 (wrap t i) = i % 2 ^ 24 := by
  simp only [lv, wrap_toNat]

theorem tdiv_eq (a b : Int) : tdiv a b = Int.tdiv a b := by
  unfold tdiv
  rw [← Int.sign_mul_natAbs (a.tdiv b), Int.natAbs_tdiv, Int.sign_tdiv]
  split
  · rw [Nat.div_eq_of_lt ‹_›]; simp
  · rfl

theorem trem_eq (a b : Int) : trem a b = Int.tmod a b := by
  unfold trem
  rw [tdiv_eq]
  have := Int.mul_tdiv_add_tmod a b
  omega

end Sys2Proof.Machine
end

