-- ==== Sys2Proof/Laws/State.lean ====
section
/-! SUPPORT. What each state update changes and leaves: one lemma per field per update, each true by `rfl`. -/

namespace Sys2Proof.Machine

@[simp] theorem deliver_record (o : Outputs) (s : State) : (deliver o s).record = s.record := rfl
@[simp] theorem deliver_inp (o : Outputs) (s : State) : (deliver o s).inp = s.inp := rfl
@[simp] theorem deliver_pending (o : Outputs) (s : State) : (deliver o s).pending = s.pending := rfl
@[simp] theorem deliver_out (o : Outputs) (s : State) : (deliver o s).out = o := rfl
@[simp] theorem deliver_params (o : Outputs) (s : State) : (deliver o s).params = s.params := rfl

@[simp] theorem raiseFatal_record (c : Cause) (s : State) :
    (raiseFatal c s).record = ⟨true, some c, s.inp.cmd, s.inp.a, s.inp.b, s.inp.c, s.inp.x⟩ := rfl
@[simp] theorem raiseFatal_inp (c : Cause) (s : State) : (raiseFatal c s).inp = s.inp := rfl
@[simp] theorem raiseFatal_pending (c : Cause) (s : State) : (raiseFatal c s).pending = s.pending := rfl
@[simp] theorem raiseFatal_out (c : Cause) (s : State) : (raiseFatal c s).out = Outputs.zero := rfl
@[simp] theorem raiseFatal_params (c : Cause) (s : State) : (raiseFatal c s).params = s.params := rfl

@[simp] theorem quiet_record (s : State) : (quiet s).record = s.record := rfl
@[simp] theorem quiet_inp (s : State) : (quiet s).inp = s.inp := rfl
@[simp] theorem quiet_pending (s : State) : (quiet s).pending = s.pending := rfl
@[simp] theorem quiet_out (s : State) : (quiet s).out = Outputs.zero := rfl
@[simp] theorem quiet_params (s : State) : (quiet s).params = s.params := rfl

@[simp] theorem resetBlock_record (s : State) : (resetBlock s).record = FaultRecord.clear := rfl
@[simp] theorem resetBlock_inp (s : State) : (resetBlock s).inp = s.inp := rfl
@[simp] theorem resetBlock_pending (s : State) : (resetBlock s).pending = s.pending := rfl
@[simp] theorem resetBlock_out (s : State) : (resetBlock s).out = Outputs.zero := rfl
@[simp] theorem resetBlock_params (s : State) : (resetBlock s).params = s.params := rfl

@[simp] theorem presentNext_record (s : State) : (presentNext s).record = s.record := by
  unfold presentNext; split <;> rfl
@[simp] theorem presentNext_out (s : State) : (presentNext s).out = s.out := by
  unfold presentNext; split <;> rfl
@[simp] theorem presentNext_params (s : State) : (presentNext s).params = s.params := by
  unfold presentNext; split <;> rfl
@[simp] theorem presentNext_inp (s : State) : (presentNext s).inp = s.pending.headD Inputs.idle := by
  unfold presentNext; split <;> simp_all
@[simp] theorem presentNext_pending (s : State) : (presentNext s).pending = s.pending.tail := by
  unfold presentNext; split <;> simp_all

@[simp] theorem presentWord_record (w : Nat) (s : State) : (presentWord w s).record = s.record := rfl
@[simp] theorem presentWord_inp (w : Nat) (s : State) :
    (presentWord w s).inp = ⟨false, true, BitVec.ofNat 16 w, s.inp.a, s.inp.b, s.inp.c, s.inp.x⟩ := rfl
@[simp] theorem presentWord_pending (w : Nat) (s : State) : (presentWord w s).pending = s.pending := rfl
@[simp] theorem presentWord_out (w : Nat) (s : State) : (presentWord w s).out = s.out := rfl
@[simp] theorem presentWord_params (w : Nat) (s : State) : (presentWord w s).params = s.params := rfl

/-- The host's next transaction is the head of what it still presents, or an idle one. -/
theorem presentNext_eq (s : State) :
    presentNext s = { s with inp := s.pending.headD Inputs.idle, pending := s.pending.tail } := by
  unfold presentNext; split <;> simp_all

end Sys2Proof.Machine
end

