-- ==== Sys2Proof/Laws/Ops.lean ====
section
/-! SUPPORT. What the shared operations of a transaction can do, each said once. -/

namespace Sys2Proof.Machine

@[simp] theorem finish_done (s : State) (o : Outputs) : finish s (.done o) = .next (deliver o s) := rfl
@[simp] theorem finish_fatal (s : State) (c : Cause) : finish s (.fatal c) = .next (raiseFatal c s) := rfl

/-- A finished rule either delivers outputs or enters a fatal; nothing else is possible. -/
theorem finish_cases {s t : State} {r : Result} (h : finish s r = .next t) :
    (∃ o, r = .done o ∧ t = deliver o s) ∨ (∃ c, r = .fatal c ∧ t = raiseFatal c s) := by
  cases r with
  | done o => exact .inl ⟨o, rfl, by simpa using h.symm⟩
  | fatal c => exact .inr ⟨c, rfl, by simpa using h.symm⟩

/-- The outcome of a finished rule tells what the rule answered, on a state that is not halted. -/
theorem finish_eq_deliver {s : State} {r : Result} {o : Outputs} (hs : s.record.fatal = false)
    (h : finish s r = .next (deliver o s)) : r = .done o := by
  rcases finish_cases h with ⟨p, rfl, hp⟩ | ⟨c, rfl, hc⟩
  · have := congrArg State.out hp
    simp at this
    rw [this]
  · have := congrArg (fun t => t.record.fatal) hc
    simp [hs] at this

/-- A finished rule that enters a fatal raised it, on a state that is not halted. -/
theorem finish_eq_raiseFatal {s : State} {r : Result} {c : Cause} (hs : s.record.fatal = false)
    (h : finish s r = .next (raiseFatal c s)) : r = .fatal c := by
  rcases finish_cases h with ⟨p, rfl, hp⟩ | ⟨d, rfl, hd⟩
  · have := congrArg (fun t => t.record.fatal) hp
    simp [hs] at this
  · have := congrArg (fun t => t.record.fcause) hd
    simp at this
    rw [this]

/-- Every command's meaning is a rule of the ports and the parameters alone, and that rule is finished (R15, R46):
the one unfolding of `exec`. -/
theorem exec_eq_finish (i : Instr) (p : Params) (n : Inputs) :
    ∃ r, ∀ s : State, s.params = p → s.inp = n → exec i s = finish s r := by
  cases i
  all_goals
    apply Exists.intro
    intro s hp hn
    simp only [exec, opA, opB, opC, opX, hp, hn,
      execZeroS, execZeroU, execCanonS, execCanonU, execValueS, execValueU, execRawS, execRawU, execBitcastS,
      execBitcastU, execMagS, execMagU, execSignumS, execSignumU, execWordsS, execWordsU, execAddroS,
      execAddroU, execSubroS, execSubroU, execMulroS, execMulroU, execDivroS, execDivroU, execRemroS,
      execRemroU, execAddS, execAddU, execSubS, execSubU, execMulS, execMulU, execDivS, execDivU, execRemS,
      execRemU, execDivremS, execDivremU, execDivfwS, execDivfwU, execIsmultS, execIsmultU, execAndS,
      execAndU, execOrS, execOrU, execXorS, execXorU, execNotS, execNotU, execShlS, execShlU, execShrS,
      execShrU, execBswapS, execBswapU, execPopcntS, execPopcntU, execClzS, execClzU, execCtzS, execCtzU,
      execCviExactS, execCviExactU, execCviExactlyS, execCviExactlyU, execCviTruncS, execCviTruncU,
      execCviClampS, execCviClampU, execCviRoundS, execCviRoundU, execCvoExactS, execCvoExactU,
      execCvoExactlyS, execCvoExactlyU, execCvoTruncS, execCvoTruncU, execCvoClampS, execCvoClampU,
      execCvoFloatS, execCvoFloatU, execCmpeqS, execCmpeqU, execCmpneS, execCmpneU, execCmpltS, execCmpltU,
      execCmpleS, execCmpleU, execCmpgtS, execCmpgtU, execCmpgeS, execCmpgeU]
    exact rfl

theorem noCommand_reset {s : State} (h : s.inp.rst = true) : noCommand s = some (resetBlock s) := by
  simp [noCommand, h]

theorem noCommand_idle {s : State} (h : s.inp.rst = false) (hq : s.inp.req = false) :
    noCommand s = some (quiet s) := by
  simp [noCommand, h, hq]

theorem noCommand_halted {s : State} (h : s.inp.rst = false) (hf : s.record.fatal = true) :
    noCommand s = some (quiet s) := by
  cases hq : s.inp.req <;> simp [noCommand, h, hq, hf]

theorem noCommand_none {s : State} (h : s.inp.rst = false) (hq : s.inp.req = true)
    (hf : s.record.fatal = false) : noCommand s = none := by
  simp [noCommand, h, hq, hf]

theorem decode_ok {w : CmdWord} {i : Instr} (h : decodeNamed w = .ok i) : decode w = some i := by
  simp [decode, h]

theorem decode_error {w : CmdWord} {e : Reserved} (h : decodeNamed w = .error e) : decode w = none := by
  simp [decode, h]

/-- What a step can do (R29, R228): one of the five cases, in the order of the checks. -/
theorem step_cases {s t : State} (h : step s = .next t) :
    (s.inp.rst = true ∧ t = presentNext (resetBlock s)) ∨
    (s.inp.rst = false ∧ (s.inp.req = false ∨ s.record.fatal = true) ∧ t = presentNext (quiet s)) ∨
    (s.inp.rst = false ∧ s.inp.req = true ∧ s.record.fatal = false ∧ decode s.inp.cmd = none ∧
      t = presentNext (raiseFatal .illegal s)) ∨
    (s.inp.rst = false ∧ s.inp.req = true ∧ s.record.fatal = false ∧
      ∃ i u, decode s.inp.cmd = some i ∧ exec i s = .next u ∧ t = presentNext u) := by
  cases hr : s.inp.rst with
  | true =>
    simp only [step, noCommand_reset hr] at h
    exact .inl ⟨rfl, by simpa using h.symm⟩
  | false =>
    cases hq : s.inp.req with
    | false =>
      simp only [step, noCommand_idle hr hq] at h
      exact .inr (.inl ⟨rfl, .inl rfl, by simpa using h.symm⟩)
    | true =>
      cases hf : s.record.fatal with
      | true =>
        simp only [step, noCommand_halted hr hf] at h
        exact .inr (.inl ⟨rfl, .inr rfl, by simpa using h.symm⟩)
      | false =>
        simp only [step, noCommand_none hr hq hf, fetch] at h
        cases hd : decodeNamed s.inp.cmd with
        | error e =>
          simp only [hd] at h
          exact .inr (.inr (.inl ⟨rfl, rfl, rfl, decode_error hd, by simpa using h.symm⟩))
        | ok i =>
          simp only [hd] at h
          obtain ⟨r, hx⟩ := exec_eq_finish i s.params s.inp
          replace hx := hx s rfl rfl
          refine .inr (.inr (.inr ⟨rfl, rfl, rfl, i, ?_⟩))
          cases r with
          | done o =>
            exact ⟨deliver o s, decode_ok hd, hx, by simpa [hx, thenPresent] using h.symm⟩
          | fatal c =>
            exact ⟨raiseFatal c s, decode_ok hd, hx, by simpa [hx, thenPresent] using h.symm⟩

end Sys2Proof.Machine
end

