-- ==== Sys2Proof/Laws/Rules.lean ====
section
/-! SUPPORT. What a finished rule leaves behind, one lemma per kind of result, and what the shared rule operations of
the command families can do. -/

namespace Sys2Proof.Machine

@[simp] theorem finish_give (s : State) (y : Wide) :
    finish s (give y) = .next { s with out := ⟨y, 0#32, false, true⟩ } := rfl
@[simp] theorem finish_giveValue (s : State) (w : HostWord) :
    finish s (giveValue w) = .next { s with out := ⟨w.setWidth 64, 0#32, false, true⟩ } := rfl
@[simp] theorem finish_giveCount (s : State) (n : Nat) :
    finish s (giveCount n) = .next { s with out := ⟨BitVec.ofNat 64 n, 0#32, false, true⟩ } := rfl
@[simp] theorem finish_giveBool (s : State) (p : Bool) :
    finish s (giveBool p) = .next { s with out := ⟨if p then 1#64 else 0#64, 0#32, false, true⟩ } := rfl
@[simp] theorem finish_giveFlagged (s : State) (w : HostWord) (ovf : Bool) :
    finish s (giveFlagged w ovf) = .next { s with out := ⟨w.setWidth 64, 0#32, ovf, true⟩ } := rfl
@[simp] theorem finish_givePair (s : State) (q r : HostWord) :
    finish s (givePair q r) = .next { s with out := ⟨q.setWidth 64, r, false, true⟩ } := rfl
@[simp] theorem finish_giveNone (s : State) :
    finish s giveNone = .next { s with out := ⟨0#64, 0#32, false, false⟩ } := rfl

/-- A stored word on `Y`, in the 24 bits of the value it stores. -/
theorem canon_setWidth64 (w : HostWord) : (canon w).setWidth 64 = (w.setWidth 24).setWidth 64 := by
  rw [canon_eq_setWidth]; simp

theorem wrap_setWidth64 (t : Ty) (i : Int) : (wrap t i).setWidth 64 = (BitVec.ofInt 24 i).setWidth 64 := by
  simp [wrap]

theorem withShiftCount_inside {x : Wide} {n : Nat} (f : Nat → HostWord) (hn : n < 24)
    (h : shiftCount x = (n : Int)) : withShiftCount x f = giveValue (f n) := by
  unfold withShiftCount
  rw [h, if_neg (by omega)]
  simp

theorem withShiftCount_outside {x : Wide} (f : Nat → HostWord) (h : shiftCount x < 0 ∨ 24 ≤ shiftCount x) :
    withShiftCount x f = .fatal .shift := by
  unfold withShiftCount
  exact if_pos h

/-- A right shift is logical but for the signed type under `SHR_S_FILL = sign`. -/
theorem shiftRight24_logical {p : ShrSFill} {t : Ty} (h : ¬(t = .s24 ∧ p = .sign)) (a : HostWord) (n : Nat) :
    shiftRight24 p t a n = a >>> n := if_neg h

theorem shiftRight24_sign (a : HostWord) (n : Nat) :
    shiftRight24 .sign .s24 a n = wrap .s24 (lv .s24 a / 2 ^ n) := if_pos ⟨rfl, rfl⟩

theorem clampTo_eq {lo hi : Int} (h : lo ≤ hi) (v : Int) : clampTo lo hi v = max lo (min hi v) := by
  unfold clampTo
  (repeat' split) <;> omega

theorem trapUnlessInRange_cases (t : Ty) (v : Int) :
    (InRange t v ∧ trapUnlessInRange t v = giveValue (enc t v)) ∨
    (¬InRange t v ∧ trapUnlessInRange t v = .fatal .overflow) := by
  by_cases h : InRange t v
  · exact .inl ⟨h, if_pos h⟩
  · exact .inr ⟨h, if_neg h⟩

/-- `DIV` and `DIVRO` overflow on the same operands in both types but for the signed `MIN_S / -1`. -/
theorem divOverflow_eq (t : Ty) (va vb : Int) :
    divOverflow t va vb = decide (vb = 0 ∨ (t = .s24 ∧ va = -8388608 ∧ vb = -1)) := by
  cases t <;> simp only [divOverflow, minOf, true_and, false_and, or_false, reduceCtorEq]
  congr

/-- The remainder's overflow test is the division's. -/
theorem remOverflow_eq (t : Ty) (va vb : Int) : remOverflow t va vb = divOverflow t va vb := by
  cases t <;> rfl

end Sys2Proof.Machine
end

