-- ==== Sys2Proof/Laws/Floats.lean ====
section
/-! SUPPORT. The floating formats in exact rationals: what a decoded operand stands for, the fields of an encoded
integer, and how an integer compares with a rational. -/

namespace Sys2Proof.Machine

theorem reading_int {f : Fmt} (h : f.isInt = true) (x : Wide) : reading f x = .finite (fint f x) 0 := by
  simp [reading, h]

theorem reading_float {f : Fmt} (h : f.isInt = false) (x : Wide) : reading f x = fdec f x := by
  simp [reading, h]

/-- A decoded significand and exponent: `num / 2^scale` is the significand times the power of two. -/
theorem scaled_significand (sig exp off : Nat) :
    ((sig * 2 ^ (exp - off) : ℕ) : ℚ) / 2 ^ (off - exp) = sig * (2 : ℚ) ^ ((exp : ℤ) - off) := by
  rcases le_total exp off with h | h
  · rw [Nat.sub_eq_zero_of_le h]
    have : ((exp : ℤ) - off) = -((off - exp : ℕ) : ℤ) := by omega
    rw [this, zpow_neg, zpow_natCast]
    simp [div_eq_mul_inv]
  · rw [Nat.sub_eq_zero_of_le h]
    have : ((exp : ℤ) - off) = ((exp - off : ℕ) : ℤ) := by omega
    rw [this, zpow_natCast]
    simp

/-- An operand whose exponent field is not all ones is finite, with the value its three fields give. -/
theorem ieeeDecode_finite (ew fw : Nat) (x : Wide) (h : x.toNat / 2 ^ fw % 2 ^ ew ≠ 2 ^ ew - 1) :
    let e := x.toNat / 2 ^ fw % 2 ^ ew
    let sig := if e = 0 then x.toNat % 2 ^ fw else 2 ^ fw + x.toNat % 2 ^ fw
    let exp := if e = 0 then 1 else e
    ∃ num scale, ieeeDecode ew fw x = .finite num scale ∧
      (num : ℚ) / 2 ^ scale = (if x.getLsbD (ew + fw) then -1 else 1) * (sig : ℚ) *
        (2 : ℚ) ^ ((exp : ℤ) - ((2 ^ (ew - 1) - 1 + fw : ℕ) : ℤ)) := by
  intro e sig exp
  refine ⟨_, 2 ^ (ew - 1) - 1 + fw - exp, by unfold ieeeDecode; exact if_neg h, ?_⟩
  change (((if x.getLsbD (ew + fw) = true then -((sig * 2 ^ (exp - _) : ℕ) : ℤ)
    else ((sig * 2 ^ (exp - _) : ℕ) : ℤ)) : ℤ) : ℚ) / _ = _
  generalize sig = g, exp = p
  rw [mul_assoc, ← scaled_significand]
  split <;> push_cast <;> ring

/-- The image of a non-zero integer, by the position of its highest bit. -/
theorem ieeeEncode_eq (ew fw : Nat) (v : Int) (k : Nat) (h1 : 2 ^ k ≤ v.natAbs) (h2 : v.natAbs < 2 ^ (k + 1)) :
    ieeeEncode ew fw v = BitVec.ofNat 64
      ((if v < 0 then 2 ^ (ew + fw) else 0) + (k + (2 ^ (ew - 1) - 1)) * 2 ^ fw +
        (v.natAbs - 2 ^ k) * 2 ^ (fw - k)) := by
  have h0 : v.natAbs ≠ 0 := by have := Nat.two_pow_pos k; omega
  have hk : Nat.log2 v.natAbs = k := by rw [Nat.log2_eq_iff h0]; exact ⟨h1, h2⟩
  unfold ieeeEncode
  rw [if_neg (by omega)]
  simp only [hk]
  split <;> simp

/-- Comparing with `num / 2^scale` is comparing the integers after multiplying out. -/
theorem relate_finite (l num : Int) (scale : Nat) :
    ((l : ℚ) < num / 2 ^ scale ↔ relate l (.finite num scale) = .lt) ∧
    ((l : ℚ) = num / 2 ^ scale ↔ relate l (.finite num scale) = .eq) ∧
    ((num : ℚ) / 2 ^ scale < l ↔ relate l (.finite num scale) = .gt) := by
  have hp : (0 : ℚ) < 2 ^ scale := by positivity
  have a1 : (l : ℚ) < num / 2 ^ scale ↔ l * 2 ^ scale < num := by
    rw [lt_div_iff₀ hp]; exact_mod_cast Iff.rfl
  have a2 : (l : ℚ) = num / 2 ^ scale ↔ l * 2 ^ scale = num := by
    rw [eq_div_iff hp.ne']; exact_mod_cast Iff.rfl
  have a3 : (num : ℚ) / 2 ^ scale < l ↔ num < l * 2 ^ scale := by
    rw [div_lt_iff₀ hp]; exact_mod_cast Iff.rfl
  rw [a1, a2, a3]
  clear a1 a2 a3
  simp only [relate]
  generalize l * 2 ^ scale = m
  refine ⟨?_, ?_, ?_⟩ <;> split <;> (try split) <;> simp <;> omega

end Sys2Proof.Machine
end

