-- ==== Sys2Proof/Laws/PerInstr.lean ====
section
/-! SUPPORT. Facts about every command as syntax, one lemma per constructor of `Instr`: the fields its encoding fills
(spec/30_encoding.md R51 to R58). -/

namespace Sys2Proof.Laws

/-- The encoding leaves `RSV` zero (R55) and stays inside the groups of R52 and the functions of R53, and below the
reserved formats of R57. -/
def EncodedFields.Statement (i : Instr) : Prop :=
  rsvField (encode i) = 0 ∧ grpField (encode i) < 7 ∧ fnField (encode i) < 10 ∧ fmtField (encode i) < 12

theorem EncodedFields.zeroS : EncodedFields.Statement .zeroS := by
  unfold EncodedFields.Statement; decide
theorem EncodedFields.zeroU : EncodedFields.Statement .zeroU := by
  unfold EncodedFields.Statement; decide
theorem EncodedFields.canonS : EncodedFields.Statement .canonS := by
  unfold EncodedFields.Statement; decide
theorem EncodedFields.canonU : EncodedFields.Statement .canonU := by
  unfold EncodedFields.Statement; decide
theorem EncodedFields.valueS : EncodedFields.Statement .valueS := by
  unfold EncodedFields.Statement; decide
theorem EncodedFields.valueU : EncodedFields.Statement .valueU := by
  unfold EncodedFields.Statement; decide
theorem EncodedFields.rawS : EncodedFields.Statement .rawS := by
  unfold EncodedFields.Statement; decide
theorem EncodedFields.rawU : EncodedFields.Statement .rawU := by
  unfold EncodedFields.Statement; decide
theorem EncodedFields.bitcastS : EncodedFields.Statement .bitcastS := by
  unfold EncodedFields.Statement; decide
theorem EncodedFields.bitcastU : EncodedFields.Statement .bitcastU := by
  unfold EncodedFields.Statement; decide
theorem EncodedFields.magS : EncodedFields.Statement .magS := by
  unfold EncodedFields.Statement; decide
theorem EncodedFields.magU : EncodedFields.Statement .magU := by
  unfold EncodedFields.Statement; decide
theorem EncodedFields.signumS : EncodedFields.Statement .signumS := by
  unfold EncodedFields.Statement; decide
theorem EncodedFields.signumU : EncodedFields.Statement .signumU := by
  unfold EncodedFields.Statement; decide
theorem EncodedFields.wordsS : EncodedFields.Statement .wordsS := by
  unfold EncodedFields.Statement; decide
theorem EncodedFields.wordsU : EncodedFields.Statement .wordsU := by
  unfold EncodedFields.Statement; decide
theorem EncodedFields.addroS : EncodedFields.Statement .addroS := by
  unfold EncodedFields.Statement; decide
theorem EncodedFields.addroU : EncodedFields.Statement .addroU := by
  unfold EncodedFields.Statement; decide
theorem EncodedFields.subroS : EncodedFields.Statement .subroS := by
  unfold EncodedFields.Statement; decide
theorem EncodedFields.subroU : EncodedFields.Statement .subroU := by
  unfold EncodedFields.Statement; decide
theorem EncodedFields.mulroS : EncodedFields.Statement .mulroS := by
  unfold EncodedFields.Statement; decide
theorem EncodedFields.mulroU : EncodedFields.Statement .mulroU := by
  unfold EncodedFields.Statement; decide
theorem EncodedFields.divroS : EncodedFields.Statement .divroS := by
  unfold EncodedFields.Statement; decide
theorem EncodedFields.divroU : EncodedFields.Statement .divroU := by
  unfold EncodedFields.Statement; decide
theorem EncodedFields.remroS : EncodedFields.Statement .remroS := by
  unfold EncodedFields.Statement; decide
theorem EncodedFields.remroU : EncodedFields.Statement .remroU := by
  unfold EncodedFields.Statement; decide
theorem EncodedFields.addS : EncodedFields.Statement .addS := by
  unfold EncodedFields.Statement; decide
theorem EncodedFields.addU : EncodedFields.Statement .addU := by
  unfold EncodedFields.Statement; decide
theorem EncodedFields.subS : EncodedFields.Statement .subS := by
  unfold EncodedFields.Statement; decide
theorem EncodedFields.subU : EncodedFields.Statement .subU := by
  unfold EncodedFields.Statement; decide
theorem EncodedFields.mulS : EncodedFields.Statement .mulS := by
  unfold EncodedFields.Statement; decide
theorem EncodedFields.mulU : EncodedFields.Statement .mulU := by
  unfold EncodedFields.Statement; decide
theorem EncodedFields.divS : EncodedFields.Statement .divS := by
  unfold EncodedFields.Statement; decide
theorem EncodedFields.divU : EncodedFields.Statement .divU := by
  unfold EncodedFields.Statement; decide
theorem EncodedFields.remS : EncodedFields.Statement .remS := by
  unfold EncodedFields.Statement; decide
theorem EncodedFields.remU : EncodedFields.Statement .remU := by
  unfold EncodedFields.Statement; decide
theorem EncodedFields.divremS : EncodedFields.Statement .divremS := by
  unfold EncodedFields.Statement; decide
theorem EncodedFields.divremU : EncodedFields.Statement .divremU := by
  unfold EncodedFields.Statement; decide
theorem EncodedFields.divfwS : EncodedFields.Statement .divfwS := by
  unfold EncodedFields.Statement; decide
theorem EncodedFields.divfwU : EncodedFields.Statement .divfwU := by
  unfold EncodedFields.Statement; decide
theorem EncodedFields.ismultS : EncodedFields.Statement .ismultS := by
  unfold EncodedFields.Statement; decide
theorem EncodedFields.ismultU : EncodedFields.Statement .ismultU := by
  unfold EncodedFields.Statement; decide
theorem EncodedFields.andS : EncodedFields.Statement .andS := by
  unfold EncodedFields.Statement; decide
theorem EncodedFields.andU : EncodedFields.Statement .andU := by
  unfold EncodedFields.Statement; decide
theorem EncodedFields.orS : EncodedFields.Statement .orS := by
  unfold EncodedFields.Statement; decide
theorem EncodedFields.orU : EncodedFields.Statement .orU := by
  unfold EncodedFields.Statement; decide
theorem EncodedFields.xorS : EncodedFields.Statement .xorS := by
  unfold EncodedFields.Statement; decide
theorem EncodedFields.xorU : EncodedFields.Statement .xorU := by
  unfold EncodedFields.Statement; decide
theorem EncodedFields.notS : EncodedFields.Statement .notS := by
  unfold EncodedFields.Statement; decide
theorem EncodedFields.notU : EncodedFields.Statement .notU := by
  unfold EncodedFields.Statement; decide
theorem EncodedFields.shlS : EncodedFields.Statement .shlS := by
  unfold EncodedFields.Statement; decide
theorem EncodedFields.shlU : EncodedFields.Statement .shlU := by
  unfold EncodedFields.Statement; decide
theorem EncodedFields.shrS : EncodedFields.Statement .shrS := by
  unfold EncodedFields.Statement; decide
theorem EncodedFields.shrU : EncodedFields.Statement .shrU := by
  unfold EncodedFields.Statement; decide
theorem EncodedFields.bswapS : EncodedFields.Statement .bswapS := by
  unfold EncodedFields.Statement; decide
theorem EncodedFields.bswapU : EncodedFields.Statement .bswapU := by
  unfold EncodedFields.Statement; decide
theorem EncodedFields.popcntS : EncodedFields.Statement .popcntS := by
  unfold EncodedFields.Statement; decide
theorem EncodedFields.popcntU : EncodedFields.Statement .popcntU := by
  unfold EncodedFields.Statement; decide
theorem EncodedFields.clzS : EncodedFields.Statement .clzS := by
  unfold EncodedFields.Statement; decide
theorem EncodedFields.clzU : EncodedFields.Statement .clzU := by
  unfold EncodedFields.Statement; decide
theorem EncodedFields.ctzS : EncodedFields.Statement .ctzS := by
  unfold EncodedFields.Statement; decide
theorem EncodedFields.ctzU : EncodedFields.Statement .ctzU := by
  unfold EncodedFields.Statement; decide
theorem EncodedFields.cviExactS (f : Fmt) : EncodedFields.Statement (.cviExactS f) := by
  unfold EncodedFields.Statement; cases f <;> decide
theorem EncodedFields.cviExactU (f : Fmt) : EncodedFields.Statement (.cviExactU f) := by
  unfold EncodedFields.Statement; cases f <;> decide
theorem EncodedFields.cviExactlyS (f : Fmt) : EncodedFields.Statement (.cviExactlyS f) := by
  unfold EncodedFields.Statement; cases f <;> decide
theorem EncodedFields.cviExactlyU (f : Fmt) : EncodedFields.Statement (.cviExactlyU f) := by
  unfold EncodedFields.Statement; cases f <;> decide
theorem EncodedFields.cviTruncS (f : Fmt) : EncodedFields.Statement (.cviTruncS f) := by
  unfold EncodedFields.Statement; cases f <;> decide
theorem EncodedFields.cviTruncU (f : Fmt) : EncodedFields.Statement (.cviTruncU f) := by
  unfold EncodedFields.Statement; cases f <;> decide
theorem EncodedFields.cviClampS (f : Fmt) : EncodedFields.Statement (.cviClampS f) := by
  unfold EncodedFields.Statement; cases f <;> decide
theorem EncodedFields.cviClampU (f : Fmt) : EncodedFields.Statement (.cviClampU f) := by
  unfold EncodedFields.Statement; cases f <;> decide
theorem EncodedFields.cviRoundS (f : Fmt) : EncodedFields.Statement (.cviRoundS f) := by
  unfold EncodedFields.Statement; cases f <;> decide
theorem EncodedFields.cviRoundU (f : Fmt) : EncodedFields.Statement (.cviRoundU f) := by
  unfold EncodedFields.Statement; cases f <;> decide
theorem EncodedFields.cvoExactS (f : Fmt) : EncodedFields.Statement (.cvoExactS f) := by
  unfold EncodedFields.Statement; cases f <;> decide
theorem EncodedFields.cvoExactU (f : Fmt) : EncodedFields.Statement (.cvoExactU f) := by
  unfold EncodedFields.Statement; cases f <;> decide
theorem EncodedFields.cvoExactlyS (f : Fmt) : EncodedFields.Statement (.cvoExactlyS f) := by
  unfold EncodedFields.Statement; cases f <;> decide
theorem EncodedFields.cvoExactlyU (f : Fmt) : EncodedFields.Statement (.cvoExactlyU f) := by
  unfold EncodedFields.Statement; cases f <;> decide
theorem EncodedFields.cvoTruncS (f : Fmt) : EncodedFields.Statement (.cvoTruncS f) := by
  unfold EncodedFields.Statement; cases f <;> decide
theorem EncodedFields.cvoTruncU (f : Fmt) : EncodedFields.Statement (.cvoTruncU f) := by
  unfold EncodedFields.Statement; cases f <;> decide
theorem EncodedFields.cvoClampS (f : Fmt) : EncodedFields.Statement (.cvoClampS f) := by
  unfold EncodedFields.Statement; cases f <;> decide
theorem EncodedFields.cvoClampU (f : Fmt) : EncodedFields.Statement (.cvoClampU f) := by
  unfold EncodedFields.Statement; cases f <;> decide
theorem EncodedFields.cvoFloatS (f : Fmt) : EncodedFields.Statement (.cvoFloatS f) := by
  unfold EncodedFields.Statement; cases f <;> decide
theorem EncodedFields.cvoFloatU (f : Fmt) : EncodedFields.Statement (.cvoFloatU f) := by
  unfold EncodedFields.Statement; cases f <;> decide
theorem EncodedFields.cmpeqS (f : Fmt) : EncodedFields.Statement (.cmpeqS f) := by
  unfold EncodedFields.Statement; cases f <;> decide
theorem EncodedFields.cmpeqU (f : Fmt) : EncodedFields.Statement (.cmpeqU f) := by
  unfold EncodedFields.Statement; cases f <;> decide
theorem EncodedFields.cmpneS (f : Fmt) : EncodedFields.Statement (.cmpneS f) := by
  unfold EncodedFields.Statement; cases f <;> decide
theorem EncodedFields.cmpneU (f : Fmt) : EncodedFields.Statement (.cmpneU f) := by
  unfold EncodedFields.Statement; cases f <;> decide
theorem EncodedFields.cmpltS (f : Fmt) : EncodedFields.Statement (.cmpltS f) := by
  unfold EncodedFields.Statement; cases f <;> decide
theorem EncodedFields.cmpltU (f : Fmt) : EncodedFields.Statement (.cmpltU f) := by
  unfold EncodedFields.Statement; cases f <;> decide
theorem EncodedFields.cmpleS (f : Fmt) : EncodedFields.Statement (.cmpleS f) := by
  unfold EncodedFields.Statement; cases f <;> decide
theorem EncodedFields.cmpleU (f : Fmt) : EncodedFields.Statement (.cmpleU f) := by
  unfold EncodedFields.Statement; cases f <;> decide
theorem EncodedFields.cmpgtS (f : Fmt) : EncodedFields.Statement (.cmpgtS f) := by
  unfold EncodedFields.Statement; cases f <;> decide
theorem EncodedFields.cmpgtU (f : Fmt) : EncodedFields.Statement (.cmpgtU f) := by
  unfold EncodedFields.Statement; cases f <;> decide
theorem EncodedFields.cmpgeS (f : Fmt) : EncodedFields.Statement (.cmpgeS f) := by
  unfold EncodedFields.Statement; cases f <;> decide
theorem EncodedFields.cmpgeU (f : Fmt) : EncodedFields.Statement (.cmpgeU f) := by
  unfold EncodedFields.Statement; cases f <;> decide

end Sys2Proof.Laws
end

