-- ==== Sys2Proof/Tests/Slice0.lean ====
section
/-! SUPPORT. Tests: the well-formedness smoke, the decoding of every command's word as spec/30_encoding.md and the
command rules write it, one step per command from spec/95_test_vectors.md (the vector's number stands before each) or
from the corner cases of the rule named, and a witness for the hypotheses of every statement. -/

namespace Sys2Proof.Tests

open Sys2Proof Sys2Proof.Machine

/-! ## Well-formedness: each check refuses an ill-formed term -/

/-- R58: no exact, truncating or clamping conversion from a float, no rounding one from an integer. -/
theorem test_wellFormed_refuses_inbound :
    (Instr.cviExactS .f32).wellFormed = false ∧ (Instr.cviExactU .f64).wellFormed = false ∧
    (Instr.cviTruncS .f64).wellFormed = false ∧ (Instr.cviTruncU .f32).wellFormed = false ∧
    (Instr.cviClampS .f32).wellFormed = false ∧ (Instr.cviClampU .f64).wellFormed = false ∧
    (Instr.cviRoundS .i32).wellFormed = false ∧ (Instr.cviRoundU .u24).wellFormed = false := by decide

/-- R58: outbound integer conversions take the native integer formats only, `CVO.FLOAT` the floating ones. -/
theorem test_wellFormed_refuses_outbound :
    (Instr.cvoExactS .s24).wellFormed = false ∧ (Instr.cvoExactU .f32).wellFormed = false ∧
    (Instr.cvoExactlyS .u24).wellFormed = false ∧ (Instr.cvoExactlyU .f64).wellFormed = false ∧
    (Instr.cvoTruncS .f32).wellFormed = false ∧ (Instr.cvoTruncU .s24).wellFormed = false ∧
    (Instr.cvoClampS .u24).wellFormed = false ∧ (Instr.cvoClampU .f64).wellFormed = false ∧
    (Instr.cvoFloatS .i32).wellFormed = false ∧ (Instr.cvoFloatU .u24).wellFormed = false := by decide

/-- R58: what the checks let through. -/
theorem test_wellFormed_admits :
    (Instr.cviExactS .s24).wellFormed = true ∧ (Instr.cviExactlyU .f32).wellFormed = true ∧
    (Instr.cviRoundS .f64).wellFormed = true ∧ (Instr.cvoClampU .u64).wellFormed = true ∧
    (Instr.cvoFloatS .f32).wellFormed = true ∧ (Instr.cmpgeU .u24).wellFormed = true ∧
    Instr.addS.wellFormed = true := by decide

/-! ## Decoding -/

/-- One word of each group written out field by field (R51: `GRP`, `FN`, `T`, `RSV`, `FMT`). -/
theorem test_decode_fields :
    decode (0x0#4 ++ 0x5#4 ++ 1#1 ++ 0b000#3 ++ 0x0#4) = some .magU ∧
    decode (0x1#4 ++ 0x3#4 ++ 0#1 ++ 0b000#3 ++ 0x0#4) = some .divroS ∧
    decode (0x2#4 ++ 0x6#4 ++ 1#1 ++ 0b000#3 ++ 0x0#4) = some .divfwU ∧
    decode (0x3#4 ++ 0x9#4 ++ 0#1 ++ 0b000#3 ++ 0x0#4) = some .ctzS ∧
    decode (0x4#4 ++ 0x1#4 ++ 1#1 ++ 0b000#3 ++ 0xA#4) = some (.cviExactlyU .s24) ∧
    decode (0x5#4 ++ 0x3#4 ++ 0#1 ++ 0b000#3 ++ 0x7#4) = some (.cvoClampS .u64) ∧
    decode (0x6#4 ++ 0x2#4 ++ 0#1 ++ 0b000#3 ++ 0xB#4) = some (.cmpltS .u24) := by decide

/-- Group `REP`: the words its rules give. -/
theorem test_decode_REP :
    decode 0x0000#16 = some .zeroS ∧ decode 0x0080#16 = some .zeroU ∧ decode 0x0100#16 = some .canonS ∧
    decode 0x0180#16 = some .canonU ∧ decode 0x0200#16 = some .valueS ∧ decode 0x0280#16 = some .valueU ∧
    decode 0x0300#16 = some .rawS ∧ decode 0x0380#16 = some .rawU ∧ decode 0x0400#16 = some .bitcastS ∧
    decode 0x0480#16 = some .bitcastU ∧ decode 0x0500#16 = some .magS ∧ decode 0x0580#16 = some .magU ∧
    decode 0x0600#16 = some .signumS ∧ decode 0x0680#16 = some .signumU ∧ decode 0x0700#16 = some .wordsS ∧
    decode 0x0780#16 = some .wordsU := by decide

/-- Group `ARC`: the words its rules give. -/
theorem test_decode_ARC :
    decode 0x1000#16 = some .addroS ∧ decode 0x1080#16 = some .addroU ∧ decode 0x1100#16 = some .subroS ∧
    decode 0x1180#16 = some .subroU ∧ decode 0x1200#16 = some .mulroS ∧ decode 0x1280#16 = some .mulroU ∧
    decode 0x1300#16 = some .divroS ∧ decode 0x1380#16 = some .divroU ∧ decode 0x1400#16 = some .remroS ∧
    decode 0x1480#16 = some .remroU := by decide

/-- Group `ARU`: the words its rules give. -/
theorem test_decode_ARU :
    decode 0x2000#16 = some .addS ∧ decode 0x2080#16 = some .addU ∧ decode 0x2100#16 = some .subS ∧
    decode 0x2180#16 = some .subU ∧ decode 0x2200#16 = some .mulS ∧ decode 0x2280#16 = some .mulU ∧
    decode 0x2300#16 = some .divS ∧ decode 0x2380#16 = some .divU ∧ decode 0x2400#16 = some .remS ∧
    decode 0x2480#16 = some .remU ∧ decode 0x2500#16 = some .divremS ∧ decode 0x2580#16 = some .divremU ∧
    decode 0x2600#16 = some .divfwS ∧ decode 0x2680#16 = some .divfwU ∧ decode 0x2700#16 = some .ismultS ∧
    decode 0x2780#16 = some .ismultU := by decide

/-- Group `BIT`: the words its rules give. -/
theorem test_decode_BIT :
    decode 0x3000#16 = some .andS ∧ decode 0x3080#16 = some .andU ∧ decode 0x3100#16 = some .orS ∧
    decode 0x3180#16 = some .orU ∧ decode 0x3200#16 = some .xorS ∧ decode 0x3280#16 = some .xorU ∧
    decode 0x3300#16 = some .notS ∧ decode 0x3380#16 = some .notU ∧ decode 0x3400#16 = some .shlS ∧
    decode 0x3480#16 = some .shlU ∧ decode 0x3500#16 = some .shrS ∧ decode 0x3580#16 = some .shrU ∧
    decode 0x3600#16 = some .bswapS ∧ decode 0x3680#16 = some .bswapU ∧ decode 0x3700#16 = some .popcntS ∧
    decode 0x3780#16 = some .popcntU ∧ decode 0x3800#16 = some .clzS ∧ decode 0x3880#16 = some .clzU ∧
    decode 0x3900#16 = some .ctzS ∧ decode 0x3980#16 = some .ctzU := by decide

/-- Group `CVI`: the words its rules give. -/
theorem test_decode_CVI :
    decode 0x4000#16 = some (.cviExactS .i8) ∧ decode 0x400A#16 = some (.cviExactS .s24) ∧
    decode 0x4083#16 = some (.cviExactU .i64) ∧ decode 0x408A#16 = some (.cviExactU .s24) ∧
    decode 0x4106#16 = some (.cviExactlyS .u32) ∧ decode 0x410A#16 = some (.cviExactlyS .s24) ∧
    decode 0x4181#16 = some (.cviExactlyU .i16) ∧ decode 0x418B#16 = some (.cviExactlyU .u24) ∧
    decode 0x4204#16 = some (.cviTruncS .u8) ∧ decode 0x420A#16 = some (.cviTruncS .s24) ∧
    decode 0x4287#16 = some (.cviTruncU .u64) ∧ decode 0x428A#16 = some (.cviTruncU .s24) ∧
    decode 0x4302#16 = some (.cviClampS .i32) ∧ decode 0x430A#16 = some (.cviClampS .s24) ∧
    decode 0x4385#16 = some (.cviClampU .u16) ∧ decode 0x438A#16 = some (.cviClampU .s24) ∧
    decode 0x4408#16 = some (.cviRoundS .f32) ∧ decode 0x4409#16 = some (.cviRoundS .f64) ∧
    decode 0x4488#16 = some (.cviRoundU .f32) ∧ decode 0x4489#16 = some (.cviRoundU .f64) := by decide

/-- Group `CVO`: the words its rules give. -/
theorem test_decode_CVO :
    decode 0x5000#16 = some (.cvoExactS .i8) ∧ decode 0x5006#16 = some (.cvoExactS .u32) ∧
    decode 0x5081#16 = some (.cvoExactU .i16) ∧ decode 0x5085#16 = some (.cvoExactU .u16) ∧
    decode 0x5104#16 = some (.cvoExactlyS .u8) ∧ decode 0x5107#16 = some (.cvoExactlyS .u64) ∧
    decode 0x5187#16 = some (.cvoExactlyU .u64) ∧ decode 0x5186#16 = some (.cvoExactlyU .u32) ∧
    decode 0x5202#16 = some (.cvoTruncS .i32) ∧ decode 0x5205#16 = some (.cvoTruncS .u16) ∧
    decode 0x5285#16 = some (.cvoTruncU .u16) ∧ decode 0x5287#16 = some (.cvoTruncU .u64) ∧
    decode 0x5300#16 = some (.cvoClampS .i8) ∧ decode 0x5306#16 = some (.cvoClampS .u32) ∧
    decode 0x5383#16 = some (.cvoClampU .i64) ∧ decode 0x5385#16 = some (.cvoClampU .u16) ∧
    decode 0x5408#16 = some (.cvoFloatS .f32) ∧ decode 0x5409#16 = some (.cvoFloatS .f64) ∧
    decode 0x5488#16 = some (.cvoFloatU .f32) ∧ decode 0x5489#16 = some (.cvoFloatU .f64) := by decide

/-- Group `CMP`: the words its rules give. -/
theorem test_decode_CMP :
    decode 0x6004#16 = some (.cmpeqS .u8) ∧ decode 0x6008#16 = some (.cmpeqS .f32) ∧
    decode 0x6087#16 = some (.cmpeqU .u64) ∧ decode 0x6089#16 = some (.cmpeqU .f64) ∧
    decode 0x6102#16 = some (.cmpneS .i32) ∧ decode 0x610A#16 = some (.cmpneS .s24) ∧
    decode 0x6185#16 = some (.cmpneU .u16) ∧ decode 0x618B#16 = some (.cmpneU .u24) ∧
    decode 0x6200#16 = some (.cmpltS .i8) ∧ decode 0x6208#16 = some (.cmpltS .f32) ∧
    decode 0x6283#16 = some (.cmpltU .i64) ∧ decode 0x6289#16 = some (.cmpltU .f64) ∧
    decode 0x6306#16 = some (.cmpleS .u32) ∧ decode 0x630A#16 = some (.cmpleS .s24) ∧
    decode 0x6381#16 = some (.cmpleU .i16) ∧ decode 0x638B#16 = some (.cmpleU .u24) ∧
    decode 0x6404#16 = some (.cmpgtS .u8) ∧ decode 0x6408#16 = some (.cmpgtS .f32) ∧
    decode 0x6487#16 = some (.cmpgtU .u64) ∧ decode 0x6489#16 = some (.cmpgtU .f64) ∧
    decode 0x6502#16 = some (.cmpgeS .i32) ∧ decode 0x650A#16 = some (.cmpgeS .s24) ∧
    decode 0x6585#16 = some (.cmpgeU .u16) ∧ decode 0x658B#16 = some (.cmpgeU .u24) := by decide

/-- Why a word is reserved, `none` for a legal word. -/
def whyReserved (w : CmdWord) : Option Reserved :=
  match decodeNamed w with
  | .ok _ => none
  | .error e => some e

/-- The reserved words X1 to X15 of spec/95_test_vectors.md, with the reason each row gives. -/
theorem test_reserved_words :
    whyReserved 0x1010#16 = some .rsvField ∧ whyReserved 0x7000#16 = some .group ∧
    whyReserved 0xF000#16 = some .group ∧ whyReserved 0xFFFF#16 = some .rsvField ∧
    whyReserved 0x0800#16 = some .function ∧ whyReserved 0x1500#16 = some .function ∧
    whyReserved 0x3A00#16 = some .function ∧ whyReserved 0x2001#16 = some .format ∧
    whyReserved 0x3402#16 = some .format ∧ whyReserved 0x4008#16 = some .format ∧
    whyReserved 0x4308#16 = some .format ∧ whyReserved 0x4402#16 = some .format ∧
    whyReserved 0x500A#16 = some .format ∧ whyReserved 0x5402#16 = some .format ∧
    whyReserved 0x600C#16 = some .format ∧ whyReserved 0x6600#16 = some .function := by decide

/-- A table word is the command word; a number beyond 16 bits is none, and bits at or above `nbits` are dropped. -/
theorem test_decodeTableWord :
    decodeTableWord 16 0x2680 = some .divfwU ∧ decodeTableWord 16 0x12680 = some .divfwU ∧
    decodeTableWord 24 0x12680 = none ∧ decodeTableWord 16 0x1010 = none := by decide

/-! ## One step per command -/

/-- A running block with a command and its operands on the ports. -/
def asks (w a b c x : Nat) : State :=
  { State.reset with
    inp := ⟨false, true, BitVec.ofNat 16 w, BitVec.ofNat 32 a, BitVec.ofNat 32 b, BitVec.ofNat 32 c,
      BitVec.ofNat 64 x⟩ }

/-- One step drives these outputs and leaves this cause recorded. -/
def answers (s : State) (o : Outputs) (f : Option Cause) : Bool :=
  match step s with
  | .next t => decide (t.out = o ∧ t.record.fatal = f.isSome ∧ t.record.fcause = f)
  | .fault _ => false
  | .refused _ => false

/-- A command word with its operands, run from the reset state. -/
def drives (w a b c x : Nat) (o : Outputs) (f : Option Cause) : Bool := answers (asks w a b c x) o f

/-- V1 -/
theorem test_zeroS :
    drives 0x0000 0 0 0 0 ⟨0, 0, false, true⟩ none := by decide

/-- V2 -/
theorem test_zeroU :
    drives 0x80 0 0 0 0 ⟨0, 0, false, true⟩ none := by decide

/-- V3 -/
theorem test_canonS :
    drives 0x100 0xFF800000 0 0 0 ⟨0x800000, 0, false, true⟩ none := by decide

/-- R82 -/
theorem test_canonU :
    drives 0x180 0xFF800000 0 0 0 ⟨0x800000, 0, false, true⟩ none := by decide

/-- V4, V5 -/
theorem test_valueS :
    drives 0x200 0xFFFFFF 0 0 0 ⟨0xFFFFFFFF, 0, false, true⟩ none ∧
    drives 0x200 0x800000 0 0 0 ⟨0xFF800000, 0, false, true⟩ none := by decide

/-- V6 -/
theorem test_valueU :
    drives 0x280 0xFFFFFF 0 0 0 ⟨0xFFFFFF, 0, false, true⟩ none := by decide

/-- V9 -/
theorem test_rawS :
    drives 0x300 0xFFFFFFFF 0 0 0 ⟨0xFFFFFF, 0, false, true⟩ none := by decide

/-- R85 -/
theorem test_rawU :
    drives 0x380 0xFFFFFFFF 0 0 0 ⟨0xFFFFFF, 0, false, true⟩ none := by decide

/-- V7 -/
theorem test_bitcastS :
    drives 0x400 0xFFFFFF 0 0 0 ⟨0xFFFFFF, 0, false, true⟩ none := by decide

/-- V8 -/
theorem test_bitcastU :
    drives 0x480 0x800000 0 0 0 ⟨0x800000, 0, false, true⟩ none := by decide

/-- V10, V11 -/
theorem test_magS :
    drives 0x500 0x800000 0 0 0 ⟨0x800000, 0, false, true⟩ none ∧
    drives 0x500 0xFFFFFF 0 0 0 ⟨1, 0, false, true⟩ none := by decide

/-- V12 -/
theorem test_magU :
    drives 0x580 0xFFFFFF 0 0 0 ⟨0xFFFFFF, 0, false, true⟩ none := by decide

/-- V13, V15 -/
theorem test_signumS :
    drives 0x600 0x800000 0 0 0 ⟨0xFFFFFF, 0, false, true⟩ none ∧
    drives 0x600 0 0 0 0 ⟨0, 0, false, true⟩ none := by decide

/-- V14 -/
theorem test_signumU :
    drives 0x680 0x800000 0 0 0 ⟨1, 0, false, true⟩ none := by decide

/-- V16 -/
theorem test_wordsS :
    drives 0x700 0x800000 0 0 0 ⟨0xFFFFFFFFFF800000, 0, false, true⟩ none := by decide

/-- R91 -/
theorem test_wordsU :
    drives 0x780 0xFFFFFF 0 0 0 ⟨0xFFFFFF, 0, false, true⟩ none := by decide

/-- V17, V22 -/
theorem test_addroS :
    drives 0x1000 0x7FFFFF 1 0 0 ⟨0x800000, 0, true, true⟩ none ∧
    drives 0x1000 0xFF7FFFFF 0xAB000001 0 0 ⟨0x800000, 0, true, true⟩ none := by decide

/-- V23, V26 -/
theorem test_addroU :
    drives 0x1080 0xFFFFFF 0 0 0 ⟨0xFFFFFF, 0, false, true⟩ none ∧
    drives 0x1080 0x800000 0x800000 0 0 ⟨0, 0, true, true⟩ none := by decide

/-- V28, V33 -/
theorem test_subroS :
    drives 0x1100 0x800000 1 0 0 ⟨0x7FFFFF, 0, true, true⟩ none ∧
    drives 0x1100 0x7FFFFF 0x800000 0 0 ⟨0xFFFFFF, 0, true, true⟩ none := by decide

/-- V34, V35 -/
theorem test_subroU :
    drives 0x1180 0 1 0 0 ⟨0xFFFFFF, 0, true, true⟩ none ∧
    drives 0x1180 0 0xFFFFFF 0 0 ⟨1, 0, true, true⟩ none := by decide

/-- V39, V47 -/
theorem test_mulroS :
    drives 0x1200 0x800000 1 0 0 ⟨0x800000, 0, false, true⟩ none ∧
    drives 0x1200 0xC00000 0xFFFFFE 0 0 ⟨0, 0, true, true⟩ none := by decide

/-- V49, V50 -/
theorem test_mulroU :
    drives 0x1280 0xFFF 0x1001 0 0 ⟨0xFFFFFF, 0, false, true⟩ none ∧
    drives 0x1280 0xFFFFFF 0xFFFFFF 0 0 ⟨0, 0, true, true⟩ none := by decide

/-- V53, V52 -/
theorem test_divroS :
    drives 0x1300 0x7FFFFF 0xFFFFFF 0 0 ⟨0x800001, 0, false, true⟩ none ∧
    drives 0x1300 0 0 0 0 ⟨0, 0, true, true⟩ none := by decide

/-- V58, V59 -/
theorem test_divroU :
    drives 0x1380 0xFFFFFF 0xFFFFFF 0 0 ⟨1, 0, false, true⟩ none ∧
    drives 0x1380 5 0 0 0 ⟨0, 0, true, true⟩ none := by decide

/-- V62, V66 -/
theorem test_remroS :
    drives 0x1400 0xFFFFF9 2 0 0 ⟨0xFFFFFF, 0, false, true⟩ none ∧
    drives 0x1400 5 0 0 0 ⟨0, 0, true, true⟩ none := by decide

/-- V67, V68 -/
theorem test_remroU :
    drives 0x1480 0xFFFFFF 0x1000 0 0 ⟨0xFFF, 0, false, true⟩ none ∧
    drives 0x1480 5 0 0 0 ⟨0, 0, true, true⟩ none := by decide

/-- V71, V70 -/
theorem test_addS :
    drives 0x2000 0xFFFFFE 5 0 0 ⟨3, 0, false, true⟩ none ∧
    drives 0x2000 0x7FFFFF 1 0 0 ⟨0, 0, false, false⟩ (some .overflow) := by decide

/-- R115, V72 -/
theorem test_addU :
    drives 0x2080 0x800000 0x7FFFFF 0 0 ⟨0xFFFFFF, 0, false, true⟩ none ∧
    drives 0x2080 0xFFFFFF 1 0 0 ⟨0, 0, false, false⟩ (some .overflow) := by decide

/-- R116, V75 -/
theorem test_subS :
    drives 0x2100 0xFFFFFF 0x800000 0 0 ⟨0x7FFFFF, 0, false, true⟩ none ∧
    drives 0x2100 0 0x800000 0 0 ⟨0, 0, false, false⟩ (some .overflow) := by decide

/-- V76, V74 -/
theorem test_subU :
    drives 0x2180 0x10 1 0 0 ⟨0xF, 0, false, true⟩ none ∧
    drives 0x2180 0 1 0 0 ⟨0, 0, false, false⟩ (some .overflow) := by decide

/-- R117, V77 -/
theorem test_mulS :
    drives 0x2200 0x800000 1 0 0 ⟨0x800000, 0, false, true⟩ none ∧
    drives 0x2200 0x800000 0xFFFFFF 0 0 ⟨0, 0, false, false⟩ (some .overflow) := by decide

/-- V78 -/
theorem test_mulU :
    drives 0x2280 0xFFF 0x1001 0 0 ⟨0xFFFFFF, 0, false, true⟩ none := by decide

/-- V80, V79 -/
theorem test_divS :
    drives 0x2300 0xFFFFF9 2 0 0 ⟨0xFFFFFD, 0, false, true⟩ none ∧
    drives 0x2300 0x800000 0xFFFFFF 0 0 ⟨0, 0, false, false⟩ (some .overflow) := by decide

/-- R118, V81 -/
theorem test_divU :
    drives 0x2380 0xFFFFFF 0x10 0 0 ⟨0xFFFFF, 0, false, true⟩ none ∧
    drives 0x2380 7 0 0 0 ⟨0, 0, false, false⟩ (some .overflow) := by decide

/-- V83, V82 -/
theorem test_remS :
    drives 0x2400 0xFFFFF9 2 0 0 ⟨0xFFFFFF, 0, false, true⟩ none ∧
    drives 0x2400 0x800000 0xFFFFFF 0 0 ⟨0, 0, false, false⟩ (some .overflow) := by decide

/-- R119, V84 -/
theorem test_remU :
    drives 0x2480 0xFFFFFF 0x1000 0 0 ⟨0xFFF, 0, false, true⟩ none ∧
    drives 0x2480 7 0 0 0 ⟨0, 0, false, false⟩ (some .overflow) := by decide

/-- V85, V88 -/
theorem test_divremS :
    drives 0x2500 0xFFFFF9 2 0 0 ⟨0xFFFFFD, 0xFFFFFF, false, true⟩ none ∧
    drives 0x2500 1 0 0 0 ⟨0, 0, false, false⟩ (some .overflow) := by decide

/-- V87 -/
theorem test_divremU :
    drives 0x2580 0xFFFFFF 0x1000 0 0 ⟨0xFFF, 0xFFF, false, true⟩ none := by decide

/-- V89, V96 -/
theorem test_divfwS :
    drives 0x2600 1 5 3 0 ⟨0x555557, 0, false, true⟩ none ∧
    drives 0x2600 0 5 0 0 ⟨0, 0, false, false⟩ (some .fwdiv) := by decide

/-- V97, V99 -/
theorem test_divfwU :
    drives 0x2680 1 0 2 0 ⟨0x800000, 0, false, true⟩ none ∧
    drives 0x2680 0x3E8 0 0x3E8 0 ⟨0, 0, false, false⟩ (some .fwdiv) := by decide +kernel

/-- V101, V104 -/
theorem test_ismultS :
    drives 0x2700 0 0 0 0 ⟨1, 0, false, true⟩ none ∧
    drives 0x2700 0xFFFFFA 3 0 0 ⟨1, 0, false, true⟩ none := by decide

/-- V105 -/
theorem test_ismultU :
    drives 0x2780 7 2 0 0 ⟨0, 0, false, true⟩ none := by decide

/-- V106 -/
theorem test_andS :
    drives 0x3000 0xFF00FF 0xFF0F0 0 0 ⟨0xF00F0, 0, false, true⟩ none := by decide

/-- R141 -/
theorem test_andU :
    drives 0x3080 0xFF00FF 0xFF0F0 0 0 ⟨0xF00F0, 0, false, true⟩ none := by decide

/-- R142 -/
theorem test_orS :
    drives 0x3100 0xFF00FF 0xFF0F0 0 0 ⟨0xFFF0FF, 0, false, true⟩ none := by decide

/-- V107 -/
theorem test_orU :
    drives 0x3180 0xFF00FF 0xFF0F0 0 0 ⟨0xFFF0FF, 0, false, true⟩ none := by decide

/-- V108 -/
theorem test_xorS :
    drives 0x3200 0xFF00FF 0xFF0F0 0 0 ⟨0xF0F00F, 0, false, true⟩ none := by decide

/-- R143 -/
theorem test_xorU :
    drives 0x3280 0xFF00FF 0xFF0F0 0 0 ⟨0xF0F00F, 0, false, true⟩ none := by decide

/-- V109, V111 -/
theorem test_notS :
    drives 0x3300 0x123456 0 0 0 ⟨0xEDCBA9, 0, false, true⟩ none ∧
    drives 0x3300 0xFF800000 0 0 0 ⟨0x7FFFFF, 0, false, true⟩ none := by decide

/-- V110 -/
theorem test_notU :
    drives 0x3380 0 0 0 0 ⟨0xFFFFFF, 0, false, true⟩ none := by decide

/-- V117, V119 -/
theorem test_shlS :
    drives 0x3400 0x400000 0 0 1 ⟨0x800000, 0, false, true⟩ none ∧
    drives 0x3400 0xABCDEF 0 0 0 ⟨0xABCDEF, 0, false, true⟩ none := by decide

/-- V116, V122 -/
theorem test_shlU :
    drives 0x3480 0xABCD 0 0 8 ⟨0xABCD00, 0, false, true⟩ none ∧
    drives 0x3480 1 0 0 0xFFFFFFFF ⟨0, 0, false, false⟩ (some .shift) := by decide

/-- V125, V128 -/
theorem test_shrS :
    drives 0x3500 0x800000 0 0 1 ⟨0x400000, 0, false, true⟩ none ∧
    drives 0x3500 0xFFFFFF 0 0 0x18 ⟨0, 0, false, false⟩ (some .shift) := by decide

/-- V124, V129 -/
theorem test_shrU :
    drives 0x3580 0xABCDEF 0 0 0xC ⟨0xABC, 0, false, true⟩ none ∧
    drives 0x3580 1 0 0 0x80000000 ⟨0, 0, false, false⟩ (some .shift) := by decide

/-- V112, V114 -/
theorem test_bswapS :
    drives 0x3600 0x123456 0 0 0 ⟨0x563412, 0, false, true⟩ none ∧
    drives 0x3600 0x80 0 0 0 ⟨0x800000, 0, false, true⟩ none := by decide

/-- V115 -/
theorem test_bswapU :
    drives 0x3680 0xAB00AB 0 0 0 ⟨0xAB00AB, 0, false, true⟩ none := by decide

/-- V130, V131 -/
theorem test_popcntS :
    drives 0x3700 0x123456 0 0 0 ⟨9, 0, false, true⟩ none ∧
    drives 0x3700 0xFFFFFF 0 0 0 ⟨0x18, 0, false, true⟩ none := by decide

/-- V132 -/
theorem test_popcntU :
    drives 0x3780 0 0 0 0 ⟨0, 0, false, true⟩ none := by decide

/-- V133, V139 -/
theorem test_clzS :
    drives 0x3800 0 0 0 0 ⟨0x18, 0, false, true⟩ none ∧
    drives 0x3800 0xFFFFFFFF 0 0 0 ⟨0, 0, false, true⟩ none := by decide

/-- V138, V137 -/
theorem test_clzU :
    drives 0x3880 0xABCD 0 0 0 ⟨8, 0, false, true⟩ none ∧
    drives 0x3880 0x800000 0 0 0 ⟨0, 0, false, true⟩ none := by decide

/-- V140, V141 -/
theorem test_ctzS :
    drives 0x3900 0 0 0 0 ⟨0x18, 0, false, true⟩ none ∧
    drives 0x3900 0x800000 0 0 0 ⟨0x17, 0, false, true⟩ none := by decide

/-- V142, V143 -/
theorem test_ctzU :
    drives 0x3980 0xABC000 0 0 0 ⟨0xE, 0, false, true⟩ none ∧
    drives 0x3980 0xFFFFFF 0 0 0 ⟨0, 0, false, true⟩ none := by decide

/-- V144, V154 -/
theorem test_cviExactS :
    drives 0x4002 0 0 0 0xFFFFFFFF ⟨0xFFFFFF, 0, false, true⟩ none ∧
    drives 0x4007 0 0 0 0xFFFFFFFFFFFFFFFF ⟨0, 0, false, false⟩ (some .range) := by decide

/-- V150, V153 -/
theorem test_cviExactU :
    drives 0x4082 0 0 0 0xFFFFFF ⟨0xFFFFFF, 0, false, true⟩ none ∧
    drives 0x408A 0 0 0 0xFFFFFF ⟨0, 0, false, false⟩ (some .range) := by decide

/-- V160, V168 -/
theorem test_cviExactlyS :
    drives 0x4109 0 0 0 0xC008000000000000 ⟨0xFFFFFD, 0, false, true⟩ none ∧
    drives 0x4109 0 0 0 0xFFF0000000000000 ⟨0, 0, false, false⟩ none := by decide +kernel

/-- V159, V169 -/
theorem test_cviExactlyU :
    drives 0x4185 0 0 0 0x8000 ⟨0x8000, 0, false, true⟩ none ∧
    drives 0x4189 0 0 0 1 ⟨0, 0, false, false⟩ none := by decide +kernel

/-- V170, V177 -/
theorem test_cviTruncS :
    drives 0x4202 0 0 0 0x800000 ⟨0x800000, 0, false, true⟩ none ∧
    drives 0x420B 0 0 0 0xFFFFFF ⟨0xFFFFFF, 0, false, true⟩ none := by decide

/-- V172, V174 -/
theorem test_cviTruncU :
    drives 0x4282 0 0 0 0xFFFFFFFF ⟨0xFFFFFF, 0, false, true⟩ none ∧
    drives 0x4280 0 0 0 0x80 ⟨0xFFFF80, 0, false, true⟩ none := by decide

/-- V178, V184 -/
theorem test_cviClampS :
    drives 0x4302 0 0 0 0x800000 ⟨0x7FFFFF, 0, false, true⟩ none ∧
    drives 0x4301 0 0 0 0x8000 ⟨0xFF8000, 0, false, true⟩ none := by decide

/-- V181, V183 -/
theorem test_cviClampU :
    drives 0x4387 0 0 0 0xFFFFFFFFFFFFFFFF ⟨0xFFFFFF, 0, false, true⟩ none ∧
    drives 0x438A 0 0 0 0xFFFFFF ⟨0, 0, false, true⟩ none := by decide

/-- V185, V197 -/
theorem test_cviRoundS :
    drives 0x4409 0 0 0 0x4004000000000000 ⟨3, 0, false, true⟩ none ∧
    drives 0x4408 0 0 0 0x7F800000 ⟨0, 0, false, false⟩ (some .range) := by decide +kernel

/-- V194, V195 -/
theorem test_cviRoundU :
    drives 0x4489 0 0 0 0x416FFFFFECCCCCCD ⟨0xFFFFFF, 0, false, true⟩ none ∧
    drives 0x4489 0 0 0 0x416FFFFFF0000000 ⟨0, 0, false, false⟩ (some .range) := by decide +kernel

/-- V199, V202 -/
theorem test_cvoExactS :
    drives 0x5000 0xFFFF80 0 0 0 ⟨0x80, 0, false, true⟩ none ∧
    drives 0x5006 0xFFFFFF 0 0 0 ⟨0, 0, false, false⟩ (some .range) := by decide

/-- R181, V205 -/
theorem test_cvoExactU :
    drives 0x5085 0xFFFF 0 0 0 ⟨0xFFFF, 0, false, true⟩ none ∧
    drives 0x5085 0x10000 0 0 0 ⟨0, 0, false, false⟩ (some .range) := by decide

/-- V207 -/
theorem test_cvoExactlyS :
    drives 0x5104 0xFFFFFF 0 0 0 ⟨0, 0, false, false⟩ none := by decide

/-- V208, V209 -/
theorem test_cvoExactlyU :
    drives 0x5180 0x7F 0 0 0 ⟨0x7F, 0, false, true⟩ none ∧
    drives 0x5180 0x80 0 0 0 ⟨0, 0, false, false⟩ none := by decide

/-- V211, V215 -/
theorem test_cvoTruncS :
    drives 0x5206 0xFFFFFF 0 0 0 ⟨0xFFFFFFFF, 0, false, true⟩ none ∧
    drives 0x5205 0xEDCBAA 0 0 0 ⟨0xCBAA, 0, false, true⟩ none := by decide

/-- V213 -/
theorem test_cvoTruncU :
    drives 0x5283 0xFFFFFF 0 0 0 ⟨0xFFFFFF, 0, false, true⟩ none := by decide

/-- V217, V221 -/
theorem test_cvoClampS :
    drives 0x5304 0x12C 0 0 0 ⟨0xFF, 0, false, true⟩ none ∧
    drives 0x5301 0x800000 0 0 0 ⟨0x8000, 0, false, true⟩ none := by decide

/-- V219 -/
theorem test_cvoClampU :
    drives 0x5381 0xFFFFFF 0 0 0 ⟨0x7FFF, 0, false, true⟩ none := by decide

/-- V222, V228 -/
theorem test_cvoFloatS :
    drives 0x5408 0xFFFFFD 0 0 0 ⟨0xC0400000, 0, false, true⟩ none ∧
    drives 0x5408 1 0 0 0 ⟨0x3F800000, 0, false, true⟩ none := by decide +kernel

/-- V223, V226 -/
theorem test_cvoFloatU :
    drives 0x5488 0xFFFFFF 0 0 0 ⟨0x4B7FFFFF, 0, false, true⟩ none ∧
    drives 0x5489 0xFFFFFF 0 0 0 ⟨0x416FFFFFE0000000, 0, false, true⟩ none := by decide +kernel

/-- V229, V234 -/
theorem test_cmpeqS :
    drives 0x600B 1 0 0 1 ⟨1, 0, false, true⟩ none ∧
    drives 0x6009 0 0 0 0x7FF8000000000000 ⟨0, 0, false, true⟩ none := by decide +kernel

/-- R203 -/
theorem test_cmpeqU :
    drives 0x6089 3 0 0 0x4008000000000000 ⟨1, 0, false, true⟩ none := by decide +kernel

/-- V236, V238 -/
theorem test_cmpneS :
    drives 0x610B 0xFFFFFF 0 0 0xFFFFFF ⟨1, 0, false, true⟩ none ∧
    drives 0x6108 5 0 0 0x7FC00000 ⟨1, 0, false, true⟩ none := by decide +kernel

/-- V237 -/
theorem test_cmpneU :
    drives 0x6180 0xFF 0 0 0xFF ⟨1, 0, false, true⟩ none := by decide +kernel

/-- V235, V244 -/
theorem test_cmpltS :
    drives 0x620B 0xFFFFFF 0 0 0 ⟨1, 0, false, true⟩ none ∧
    drives 0x620A 0x800000 0 0 0x7FFFFF ⟨1, 0, false, true⟩ none := by decide +kernel

/-- V241, V245 -/
theorem test_cmpltU :
    drives 0x6283 0xFFFFFF 0 0 0x7FFFFFFFFFFFFFFF ⟨1, 0, false, true⟩ none ∧
    drives 0x628B 0x800000 0 0 0x7FFFFF ⟨0, 0, false, true⟩ none := by decide +kernel

/-- V246, V248 -/
theorem test_cmpleS :
    drives 0x630B 0xFFFFFF 0 0 0xFFFFFF ⟨1, 0, false, true⟩ none ∧
    drives 0x6309 5 0 0 0x7FF8000000000000 ⟨0, 0, false, true⟩ none := by decide +kernel

/-- R206 -/
theorem test_cmpleU :
    drives 0x638A 0 0 0 0xFFFFFF ⟨0, 0, false, true⟩ none := by decide +kernel

/-- V251, V252 -/
theorem test_cmpgtS :
    drives 0x6409 0x800000 0 0 0xFFF0000000000000 ⟨1, 0, false, true⟩ none ∧
    drives 0x6409 0x7FFFFF 0 0 0x7FF0000000000000 ⟨0, 0, false, true⟩ none := by decide +kernel

/-- V249, V253 -/
theorem test_cmpgtU :
    drives 0x648A 0 0 0 0xFFFFFF ⟨1, 0, false, true⟩ none ∧
    drives 0x6489 3 0 0 0x4004000000000000 ⟨1, 0, false, true⟩ none := by decide +kernel

/-- V255, V257 -/
theorem test_cmpgeS :
    drives 0x650A 0x7FFFFF 0 0 0x800000 ⟨1, 0, false, true⟩ none ∧
    drives 0x6508 5 0 0 0x7FC00000 ⟨0, 0, false, true⟩ none := by decide +kernel

/-- V256 -/
theorem test_cmpgeU :
    drives 0x6584 0x100 0 0 0xFFFFFFFF ⟨1, 0, false, true⟩ none := by decide +kernel

/-- Part 4 of the vectors: `SHR_S_FILL = sign`. -/
theorem test_shr_fill_sign :
    let signed (s : State) : State := { s with params := ⟨.tiesAway, .sign, .zero⟩ }
    answers (signed (asks 0x3500 0x800000 0 0 1)) ⟨0xC00000, 0, false, true⟩ none ∧
    answers (signed (asks 0x3500 0xFFFFFF 0 0 23)) ⟨0xFFFFFF, 0, false, true⟩ none ∧
    answers (signed (asks 0x3580 0x800000 0 0 1)) ⟨0x400000, 0, false, true⟩ none := by decide

/-- Part 4 of the vectors: `MUL_OVF_PARTIAL = wrapped`. -/
theorem test_mul_partial_wrapped :
    let wrapped (s : State) : State := { s with params := ⟨.tiesAway, .zero, .wrapped⟩ }
    answers (wrapped (asks 0x1200 2897 2897 0 0)) ⟨0x800FA1, 0, true, true⟩ none ∧
    answers (wrapped (asks 0x1280 0xFFFFFF 0xFFFFFF 0 0)) ⟨1, 0, true, true⟩ none ∧
    answers (wrapped (asks 0x2200 4096 2048 0 0)) ⟨0, 0, false, false⟩ (some .overflow) := by decide

/-- Part 4 of the vectors: `F2I_ROUND = ties_even`. -/
theorem test_round_ties_even :
    let even (s : State) : State := { s with params := ⟨.tiesEven, .zero, .zero⟩ }
    answers (even (asks 0x4409 0 0 0 0xC004000000000000)) ⟨0xFFFFFE, 0, false, true⟩ none ∧
    answers (even (asks 0x4489 0 0 0 0xBFE0000000000000)) ⟨0, 0, false, true⟩ none ∧
    answers (even (asks 0x4408 0 0 0 0x4AFFFFFF)) ⟨0, 0, false, false⟩ (some .range) := by decide +kernel

/-! ## Transactions -/

/-- A block halted by `ADD.S` of `MAX_S` and 1, with a command on its ports (program P3 of the vectors). -/
def haltedBlock : State :=
  { asks 0x2000 1 1 0 0 with record := ⟨true, some .overflow, 0x2000#16, 0x7FFFFF#32, 1#32, 0#32, 0#64⟩ }

/-- R228: a reserved word is `ILLEGAL` before its operands are looked at, and the ports are recorded as presented. -/
theorem test_record_of_illegal :
    step (asks 0x3410 0xFF000001 2 3 0x63) = .next
      { asks 0x3410 0xFF000001 2 3 0x63 with
        record := ⟨true, some .illegal, 0x3410#16, 0xFF000001#32, 2#32, 3#32, 0x63#64⟩
        inp := Inputs.idle } := by rfl

/-- R28: while halted nothing is executed and nothing changes. -/
theorem test_halted_ignores :
    step haltedBlock = .next { haltedBlock with inp := Inputs.idle } := by rfl

/-- R30, R251: reset clears the record, whatever else is presented. -/
theorem test_reset_clears :
    step { haltedBlock with inp := ⟨true, true, 0xFFFF#16, 0#32, 0#32, 0#32, 0#64⟩ } = .next State.reset := by rfl

/-- R23: an idle transaction answers nothing, and the host's next one is on the ports after it. -/
theorem test_idle_then_next :
    step { State.reset with pending := [(asks 0x2000 1 2 0 0).inp] } = .next (asks 0x2000 1 2 0 0) := by rfl

/-- The table word requested on the ports is the next command run. -/
theorem test_withFetchWord :
    answers (State.reset.withFetchWord 16 0x3300) ⟨0xFFFFFF, 0, false, true⟩ none ∧
    answers (haltedBlock.withFetchWord 16 0x3300) ⟨0, 0, false, false⟩ (some .overflow) := by decide

/-! ## Lines and pseudo-instructions (spec/30_encoding.md R64 to R68) -/

/-- R64: the sources go to the ports in order, and a line has exactly as many as the command reads. -/
theorem test_assemble :
    assemble .divfwS [.int (-1), .bits 0xFFFFFB#64, .int 2] =
      some ⟨false, true, 0x2600#16, 0xFFFFFF#32, 0xFFFFFB#32, 2#32, 0#64⟩ ∧
    assemble .shlU [.bits 0xABCD#64, .int 8] = some ⟨false, true, 0x3480#16, 0xABCD#32, 0#32, 0#32, 8#64⟩ ∧
    assemble .addS [.int 1] = none ∧ assemble .addU [.int (-1), .int 1] = none ∧
    assemble (.cviRoundS .f64) [.int 1] = none := by decide

/-- R66 to R68: what each kind of pseudo-instruction is issued as. -/
theorem test_assemblePseudo :
    assemblePseudo (.foreignLt .s24 .u24) [.bits 5#64, .int 7] =
      some ⟨false, true, 0x640B#16, 7#32, 0#32, 0#32, 5#64⟩ ∧
    assemblePseudo (.minConst .s24) [] =
      some ⟨false, true, 0x4003#16, 0#32, 0#32, 0#32, 0xFFFFFFFFFF800000#64⟩ ∧
    assemblePseudo (.shra .u24) [.int 8, .int 2] = some ⟨false, true, 0x3580#16, 8#32, 0#32, 0#32, 2#64⟩ ∧
    assemblePseudo (.mov .s24) [.int (-1)] = some ⟨false, true, 0x0100#16, 0xFFFFFF#32, 0#32, 0#32, 0#64⟩ ∧
    assemblePseudo (.maxConst .u24) [.int 1] = none := by decide

/-! ## Witnesses: states and operands that meet the hypotheses of each statement -/

theorem witness_DecodeOfEncode : (Instr.cviRoundU .f64).wellFormed = true ∧ Instr.zeroS.wellFormed = true := by decide

theorem witness_EncodeOfDecode : decode 0x4489#16 = some (.cviRoundU .f64) := by decide

theorem witness_StepRunsTheDecodedCommand :
    Presents (asks 0x2000 1 2 0 0) 0x2000#16 ∧ decode 0x2000#16 = some .addS := ⟨⟨rfl, rfl, rfl, rfl⟩, by decide⟩

theorem witness_TableWordRunsItsCommand :
    State.reset.record.fatal = false ∧ decodeTableWord 16 0x2000 = some .addS := by decide

/-- One state for each of the five cases. -/
theorem witness_StepFollowsTheCheckOrder :
    (∃ s : State, s.inp.rst = true) ∧
    (State.reset.inp.rst = false ∧ State.reset.inp.req = false) ∧
    (haltedBlock.inp.rst = false ∧ haltedBlock.inp.req = true ∧ haltedBlock.record.fatal = true) ∧
    (let s := asks 0x1010 0 0 0 0
     s.inp.rst = false ∧ s.inp.req = true ∧ s.record.fatal = false ∧ decode s.inp.cmd = none) ∧
    (let s := asks 0x2000 0 0 0 0
     s.inp.rst = false ∧ s.inp.req = true ∧ s.record.fatal = false ∧ decode s.inp.cmd = some .addS) :=
  ⟨⟨{ State.reset with inp := { Inputs.idle with rst := true } }, rfl⟩, by decide, by decide, by decide, by decide⟩

theorem witness_ResetClearsTheRecord :
    ({ haltedBlock with inp := { haltedBlock.inp with rst := true } } : State).inp.rst = true := rfl

theorem witness_HaltedIgnoresTransactions : Halted haltedBlock ∧ haltedBlock.inp.rst = false := ⟨rfl, rfl⟩

theorem witness_HaltLastsUntilReset :
    let s : State := { haltedBlock with pending := [(asks 0x0000 0 0 0 0).inp, Inputs.idle] }
    Halted s ∧ s.inp.rst = false ∧ ∀ p ∈ s.pending, p.rst = false := ⟨rfl, rfl, by decide⟩

theorem witness_ReservedWordIsIllegal :
    Presents (asks 0x1010 1 2 3 4) 0x1010#16 ∧ decode 0x1010#16 = none := ⟨⟨rfl, rfl, rfl, rfl⟩, by decide⟩

/-- A trap of each cause a command raises, and both forms of the recorded cause. -/
theorem witness_CauseOfEachCommand :
    Traps (.cvoExactS .i8) (asks 0 128 0 0 0) .range ∧ Traps .shlS (asks 0 1 0 0 24) .shift ∧
    Traps .addS (asks 0 0x7FFFFF 1 0 0) .overflow ∧ Traps .divfwS (asks 0 0 5 0 0) .fwdiv ∧
    (Instr.cvoExactS .i8).wellFormed = true ∧ (asks 0 0 0 0 0).record.fatal = false ∧
    haltedBlock.record.fcause = some .overflow ∧ State.reset.record.fcause = none :=
  ⟨rfl, rfl, rfl, rfl, rfl, rfl, rfl, rfl⟩

/-- A well-formed state whose step traps, and one that is halted. -/
theorem witness_StepKeepsTheInvariant :
    (asks 0x2000 0x7FFFFF 1 0 0).wf ∧ haltedBlock.wf ∧ ∃ t, step (asks 0x2000 0x7FFFFF 1 0 0) = .next t :=
  ⟨⟨rfl, fun _ => rfl, rfl⟩, ⟨nofun, fun _ => rfl, rfl⟩, _, rfl⟩

theorem witness_StepKeepsTheRecordExplained :
    haltedBlock.explained ∧ haltedBlock.record.fatal = true ∧ ∃ t, step haltedBlock = .next t :=
  ⟨fun _ => .inr ⟨.addS, .overflow, rfl, rfl, rfl⟩, rfl, _, rfl⟩

/-- Two different states on the same transaction. -/
theorem witness_TransactionsAreIndependent :
    let s := asks 0x2000 1 2 0 0
    let u : State := { s with out := ⟨7#64, 0#32, false, true⟩, pending := [Inputs.idle] }
    s.inp = u.inp ∧ s.params = u.params ∧ s.record.fatal = u.record.fatal ∧ s.record = u.record ∧
    (∃ t, step s = .next t) ∧ ∃ t, step u = .next t := ⟨rfl, rfl, rfl, rfl, ⟨_, rfl⟩, _, rfl⟩

/-- Ports that differ in unread bits, with a delivered and a trapped command on them. -/
theorem witness_OnlyTheOperandsMatter :
    SameOperands .addS (asks 0 0xFF000001 2 3 4).inp (asks 0 1 0xAB000002 5 6).inp ∧
    Delivers .addS (asks 0 0xFF000001 2 3 4) (yOnly 3#64) ∧
    SameOperands .shlS (asks 0 1 2 3 24).inp (asks 0 1 5 6 0x100000018).inp ∧
    Traps .shlS (asks 0 1 2 3 24) .shift :=
  ⟨⟨fun _ => rfl, fun _ => rfl, nofun, rfl⟩, rfl, ⟨fun _ => rfl, nofun, nofun, rfl⟩, rfl⟩

/-- A running block on both sides of each condition: the operands each parameter is named for, and beside each the
nearest on which it does not matter (Part 4: a count of 24, a trapping product, 8388607.5). -/
theorem witness_ParametersChangeOneCommandEach :
    (asks 0 0 0 0 0).record.fatal = false ∧
    (lv .s24 (opA (asks 0 0x800000 0 0 1)) < 0 ∧ ((1#64).setWidth 32).toInt = 1 ∧ ((24#64).setWidth 32).toInt = 24 ∧
      Traps .shrS (asks 0 0x800000 0 0 24) .shift) ∧
    (¬InRange .s24 (lv .s24 (opA (asks 0 4096 0 0 0)) * lv .s24 (opA (asks 0 2048 0 0 0))) ∧
      ¬(2 ^ 24 ∣ lv .s24 (opA (asks 0 4096 0 0 0)) * lv .s24 (opA (asks 0 2048 0 0 0))) ∧
      2 ^ 24 ∣ lv .s24 (opA (asks 0 4096 0 0 0)) * lv .s24 (opA (asks 0 4096 0 0 0)) ∧
      Traps .mulS (asks 0 4096 2048 0 0) .overflow) :=
  ⟨rfl, ⟨by decide, by decide, by decide, rfl⟩, by decide, by decide, by decide, rfl⟩

/-- The same for rounding: 2.5 is a tie above an even integer, 3.5 above an odd one, 8388607.5 is the same fatal under
each setting. -/
theorem witness_ParametersChangeOneCommandEach_round :
    fdec .f64 0x4004000000000000#64 = .finite 0x14000000000000 51 ∧ InRange .s24 (rnd .tiesEven 0x14000000000000 51) ∧
    rnd .tiesAway 0x14000000000000 51 = 3 ∧ rnd .tiesEven 0x14000000000000 51 = 2 ∧
    fdec .f64 0x400C000000000000#64 = .finite 0x1C000000000000 51 ∧
    rnd .tiesAway 0x1C000000000000 51 = 4 ∧ rnd .tiesEven 0x1C000000000000 51 = 4 ∧
    cviRoundRule .tiesAway .s24 .f32 0x4AFFFFFF#64 = .fatal .range ∧
    cviRoundRule .tiesEven .s24 .f32 0x4AFFFFFF#64 = .fatal .range := by decide +kernel

theorem witness_ParametersChangeOneCommandEach_tie :
    |((0x14000000000000 : Int) : ℚ) / (2 : ℚ) ^ 51| = 2 * ((1 : Int) : ℚ) + 1 / 2 := by norm_num

theorem witness_SignExtensionFormsAgree :
    0x7FFFFF#32 &&& 0xFF000000#32 = 0#32 ∧ (0x7FFFFF#32).getLsbD 23 = false ∧
    0x800000#32 &&& 0xFF000000#32 = 0#32 ∧ (0x800000#32).getLsbD 23 = true := by decide

theorem witness_EncodingOfValuesIsExact :
    InRange .s24 (-8388608) ∧ InRange .s24 8388607 ∧ InRange .u24 0 ∧ InRange .u24 16777215 := by decide

theorem witness_DivisionPrimitives : (-2 : Int) ≠ 0 := by decide

/-- Both ends of the signed and the unsigned formats, and readings at the sign bit that another width or sign would
change (R57). -/
theorem witness_IntegerFormatsReadByWidthAndSign :
    Fmt.s24.isInt = true ∧ Fmt.u64.isInt = true ∧ fmin .s24 ≤ -8388608 ∧ (-8388608 : Int) ≤ fmax .s24 ∧
    fmin .u64 ≤ 18446744073709551615 ∧ (18446744073709551615 : Int) ≤ fmax .u64 ∧
    fint .i8 0x180#64 = -128 ∧ fint .u8 0x180#64 = 128 ∧ fint .i16 0x18000#64 = -32768 ∧
    fint .u16 0x18000#64 = 32768 ∧ fint .s24 0x1800000#64 = -8388608 ∧ fint .u24 0x1800000#64 = 8388608 ∧
    fint .i32 0x180000000#64 = -2147483648 ∧ fint .u32 0x180000000#64 = 2147483648 := by decide

theorem witness_BitcastRoundTrip :
    (∃ u, exec .bitcastU (asks 0 0x800000 0 0 0) = .next u) ∧ ∃ u, exec .bitcastS (asks 0 0xFFFFFF 0 0 0) = .next u :=
  ⟨⟨_, rfl⟩, _, rfl⟩

/-- The two sides of each boundary of the signed and the unsigned product. -/
theorem witness_CheckedMulResults :
    let value (t : Ty) (a b : Nat) := lv t (opA (asks 0 a b 0 0)) * lv t (opB (asks 0 a b 0 0))
    InRange .s24 (value .s24 4096 0xFFF800) ∧ ¬InRange .s24 (value .s24 4096 2048) ∧
    InRange .u24 (value .u24 4095 4097) ∧ ¬InRange .u24 (value .u24 4096 4096) := by decide

/-- A zero divisor, `MIN_S` by -1, and `MIN_S` by 1, which divides. -/
theorem witness_CheckedDivRemResults :
    let bad (t : Ty) (a b : Nat) : Prop :=
      lv t (opB (asks 0 a b 0 0)) = 0 ∨
      (t = .s24 ∧ lv t (opA (asks 0 a b 0 0)) = -8388608 ∧ lv t (opB (asks 0 a b 0 0)) = -1)
    bad .u24 5 0 ∧ bad .s24 0x800000 0xFFFFFF ∧ ¬bad .s24 0x800000 1 ∧ ¬bad .u24 0x800000 0xFFFFFF := by decide

/-- Operands on which the trapping divisions complete, and both kinds on which they trap. -/
theorem witness_TrappingDivisionResults :
    let bad (t : Ty) (a b : Nat) : Prop :=
      lv t (opB (asks 0 a b 0 0)) = 0 ∨
      (t = .s24 ∧ lv t (opA (asks 0 a b 0 0)) = -8388608 ∧ lv t (opB (asks 0 a b 0 0)) = -1)
    ¬bad .s24 0xFFFFF9 2 ∧ ¬bad .u24 0xFFFFFF 0x1000 ∧ ¬bad .s24 0x800001 0xFFFFFF ∧ bad .u24 7 0 ∧
    bad .s24 7 0 ∧ bad .s24 0x800000 0xFFFFFF := by decide

/-- `MIN_S % -1` is flagged though its remainder is in range (R112, R124). -/
theorem witness_OverflowIsExactlyOutOfRange :
    remOverflow .s24 (lv .s24 (opA (asks 0 0x800000 0 0 0))) (-1) = true ∧ InRange .s24 (trem (-8388608) (-1)) ∧
    remOverflow .s24 (-8388607) (-1) = false ∧ remOverflow .u24 0 0 = true := by decide

/-- Both sides of the boundary of each sum, difference and product. -/
theorem witness_AddSubMul :
    let a (t : Ty) (w : Nat) := lv t (opA (asks 0 w 0 0 0))
    InRange .s24 (a .s24 0x7FFFFE + a .s24 1) ∧ ¬InRange .s24 (a .s24 0x7FFFFF + a .s24 1) ∧
    InRange .u24 (a .u24 1 - a .u24 1) ∧ ¬InRange .u24 (a .u24 0 - a .u24 1) ∧
    InRange .s24 (a .s24 0x800000 * a .s24 1) ∧ ¬InRange .s24 (a .s24 0x800000 * a .s24 0xFFFFFF) := by decide

/-- A pair of the statement's list, a checked form that overflows and one that does not. -/
theorem witness_CheckedAndTrappingFormsAgree :
    (Instr.remroU, Instr.remU) ∈ [(Ty.u24.pick .addroS .addroU, Ty.u24.pick .addS .addU),
      (Ty.u24.pick .remroS .remroU, Ty.u24.pick .remS .remU)] ∧
    (∃ u, exec .addroS (asks 0 0x7FFFFF 1 0 0) = .next u ∧ u.out.ovf = true) ∧
    ∃ u, exec .remroU (asks 0 7 2 0 0) = .next u ∧ u.out.ovf = false :=
  ⟨by decide, ⟨_, rfl, rfl⟩, _, rfl, rfl⟩

theorem witness_DivremPairSatisfiesDivision :
    ∃ u, exec .divremS (asks 0 0xFFFFF9 2 0 0) = .next u ∧ u.record.fatal = false := ⟨_, rfl, rfl⟩

/-- The largest quotient in range, the first one out of range, and a zero divisor. -/
theorem witness_FullWidthDivisionResults :
    let n (t : Ty) (a b : Nat) := lv t (opA (asks 0 a b 0 0)) * 16777216 + ((opB (asks 0 a b 0 0)).toNat : Int)
    InRange .u24 (tdiv (n .u24 1 0xFFFFFF) 2) ∧ ¬InRange .u24 (tdiv (n .u24 2 0) 2) ∧
    InRange .s24 (tdiv (n .s24 0xFFFFFF 0) 2) ∧ ¬InRange .s24 (tdiv (n .s24 0xFFFFFF 0) (-2)) ∧
    lv .s24 (opC (asks 0 1 5 0 0)) = 0 := by decide

theorem witness_UnsignedFullWidthRange :
    (opA (asks 0 1 0 2 0)).toNat < (opC (asks 0 1 0 2 0)).toNat ∧
    (opC (asks 0 2 0 2 0)).toNat ≤ (opA (asks 0 2 0 2 0)).toNat := by decide

theorem witness_IsMultipleResults :
    (∃ k : Int, lv .s24 (opA (asks 0 0xFFFFFA 3 0 0)) = k * lv .s24 (opB (asks 0 0xFFFFFA 3 0 0))) ∧
    ¬∃ k : Int, lv .u24 (opA (asks 0 5 0 0 0)) = k * lv .u24 (opB (asks 0 5 0 0 0)) := by
  refine ⟨⟨-2, by decide⟩, ?_⟩
  rintro ⟨k, hk⟩
  rw [show lv .u24 (opA (asks 0 5 0 0 0)) = 5 by decide, show lv .u24 (opB (asks 0 5 0 0 0)) = 0 by decide] at hk
  omega

theorem witness_NotLogicalValue :
    (∃ u, exec .notS (asks 0 0x800000 0 0 0) = .next u) ∧ ∃ u, exec .notU (asks 0 0x800000 0 0 0) = .next u :=
  ⟨⟨_, rfl⟩, _, rfl⟩

/-- The least and the greatest count, and each setting of the fill. -/
theorem witness_ShiftResults :
    ((asks 0 1 0 0 23).inp.x.setWidth 32).toInt = ((23 : Nat) : Int) ∧
    ((asks 0 1 0 0 0xFFFFFFFF00000000).inp.x.setWidth 32).toInt = ((0 : Nat) : Int) ∧
    (asks 0 1 0 0 23).params.shrSFill = .zero ∧
    ({ asks 0 1 0 0 23 with params := ⟨.tiesAway, .sign, .zero⟩ } : State).params.shrSFill = .sign := by decide

theorem witness_ShiftCountOutOfRangeTraps :
    ((asks 0 1 0 0 0xFFFFFFFF).inp.x.setWidth 32).toInt < 0 ∧ 24 ≤ ((asks 0 1 0 0 24).inp.x.setWidth 32).toInt := by
  decide

/-- Both sides of each range, and a format of at least 24 bits. -/
theorem witness_InboundIntegerConversions :
    Fmt.i32.isInt = true ∧ InRange .s24 (fint .i32 0xFF800000#64) ∧ ¬InRange .s24 (fint .i32 0x800000#64) ∧
    InRange .u24 (fint .u24 0xFFFFFF#64) ∧ ¬InRange .u24 (fint .i8 0xFF#64) ∧ 24 ≤ fmtWidth .s24 := by decide

/-- An integer in and out of range, a float that is an integer in range (1.0), one that is none (0.5), and NaN. -/
theorem witness_FallibleInboundConversion :
    InRange .s24 (fint .i8 0x80#64) ∧ ¬InRange .u24 (fint .i8 0x80#64) ∧ Fmt.f32.isFloat = true ∧
    fdec .f32 0x3F800000#64 = .finite 0x800000 23 ∧ InRange .u24 1 ∧
    fdec .f32 0x3F000000#64 = .finite 0x800000 24 ∧ fdec .f32 0x7FC00000#64 = .nan := by decide +kernel

theorem witness_FallibleInboundConversion_rational :
    ((1 : Int) : ℚ) = ((0x800000 : Int) : ℚ) / 2 ^ 23 ∧ ¬∃ v : Int, (v : ℚ) = ((0x800000 : Int) : ℚ) / 2 ^ 24 := by
  refine ⟨by norm_num, ?_⟩
  rintro ⟨v, hv⟩
  have : (2 * v : ℚ) = 1 := by rw [hv]; norm_num
  have : 2 * v = 1 := by exact_mod_cast this
  omega

theorem witness_TruncationIsIdempotent :
    Fmt.i64.isInt = true ∧ ∃ u, exec (.cviTruncS .i64) (asks 0 0 0 0 0x123456789ABCDEF0) = .next u := ⟨rfl, _, rfl⟩

/-- Each class of operand in both formats: NaN, infinity, subnormal, normal. -/
theorem witness_FloatDecoding :
    (let e (x : Wide) := (x.extractLsb' 23 8).toNat
     let m (x : Wide) := (x.extractLsb' 0 23).toNat
     (e 0x7FC00000#64 = 255 ∧ m 0x7FC00000#64 ≠ 0) ∧ (e 0xFF800000#64 = 255 ∧ m 0xFF800000#64 = 0) ∧
     e 0x007FFFFF#64 = 0 ∧ e 0x00800000#64 = 1 ∧ e 0x7F7FFFFF#64 = 254) ∧
    (let e (x : Wide) := (x.extractLsb' 52 11).toNat
     let m (x : Wide) := (x.extractLsb' 0 52).toNat
     (e 0x7FF8000000000000#64 = 2047 ∧ m 0x7FF8000000000000#64 ≠ 0) ∧
     (e 0xFFF0000000000000#64 = 2047 ∧ m 0xFFF0000000000000#64 = 0) ∧ e 1#64 = 0 ∧
     e 0x0010000000000000#64 = 1 ∧ e 0x7FEFFFFFFFFFFFFF#64 = 2046) := by decide +kernel

/-- An exact tie: 5 / 2 goes to 3 away from zero and to 2 under `ties_even`. -/
theorem witness_RoundingToNearest :
    rnd .tiesAway 5 1 = 3 ∧ rnd .tiesEven 5 1 = 2 ∧ |((2 : Int) : ℚ) - ((5 : Int) : ℚ) / 2 ^ 1| = 1 / 2 := by
  refine ⟨by decide, by decide, ?_⟩
  norm_num [abs_of_neg]

/-- 8 388 607.0 is in range, 8 388 607.5 rounds out of it; the infinities and NaN. -/
theorem witness_RoundingConversion :
    Fmt.f32.isFloat = true ∧ fdec .f32 0x4AFFFFFE#64 = .finite 16777214 1 ∧
    InRange .s24 (rnd .tiesAway 16777214 1) ∧ fdec .f32 0x4AFFFFFF#64 = .finite 16777215 1 ∧
    ¬InRange .s24 (rnd .tiesAway 16777215 1) ∧ fdec .f32 0x7F800000#64 = .posInf ∧
    fdec .f64 0xFFF0000000000000#64 = .negInf ∧ fdec .f64 0x7FF8000000000000#64 = .nan := by decide +kernel

theorem witness_OutboundIntegerConversions :
    Fmt.i8.isNativeInt = true ∧
    (fmin .i8 ≤ lv .s24 (opA (asks 0 0xFFFF80 0 0 0)) ∧ lv .s24 (opA (asks 0 0xFFFF80 0 0 0)) ≤ fmax .i8) ∧
    ¬(fmin .i8 ≤ lv .s24 (opA (asks 0 128 0 0 0)) ∧ lv .s24 (opA (asks 0 128 0 0 0)) ≤ fmax .i8) := by decide

/-- Zero, the least magnitude and the greatest. -/
theorem witness_FloatEncoding :
    lv .s24 (opA (asks 0 0 0 0 0)) = 0 ∧
    (2 ^ 0 ≤ (lv .s24 (opA (asks 0 0xFFFFFF 0 0 0))).natAbs ∧ (lv .s24 (opA (asks 0 0xFFFFFF 0 0 0))).natAbs < 2 ^ 1) ∧
    (2 ^ 23 ≤ (lv .u24 (opA (asks 0 0xFFFFFF 0 0 0))).natAbs ∧
      (lv .u24 (opA (asks 0 0xFFFFFF 0 0 0))).natAbs < 2 ^ 24) := by decide

theorem witness_FloatRoundTrip :
    Fmt.f32.isFloat = true ∧ ∃ u, exec (.cvoFloatU .f32) (asks 0 0xFFFFFF 0 0 0) = .next u := ⟨rfl, _, rfl⟩

theorem witness_IntegerComparisons : Fmt.u24.isInt = true := rfl

/-- A finite operand, both infinities and NaN. -/
theorem witness_FloatComparisons :
    Fmt.f64.isFloat = true ∧ fdec .f32 0x3F800000#64 = .finite 0x800000 23 ∧
    fdec .f64 0x7FF0000000000000#64 = .posInf ∧ fdec .f32 0xFF800000#64 = .negInf ∧
    fdec .f32 0x7FC00000#64 = .nan := by decide +kernel

/-- Literals at the ends of each range and one beyond, and a floating literal of each kind. -/
theorem witness_LiteralsDeliverTheirNumber :
    InRange .s24 (-8388608) ∧ InRange .u24 16777215 ∧ ¬InRange .s24 8388608 ∧ ¬InRange .u24 (-1) ∧
    fdec .f64 0x4004000000000000#64 = .finite 0x14000000000000 51 ∧ InRange .u24 (rnd .tiesAway 0x14000000000000 51) ∧
    fdec .f64 0xBFF0000000000000#64 = .finite (-0x10000000000000) 52 ∧
    ¬InRange .u24 (rnd .tiesAway (-0x10000000000000) 52) ∧ fdec .f64 0x7FF0000000000000#64 = .posInf ∧
    fdec .f64 0xFFF0000000000000#64 = .negInf ∧ fdec .f64 0x7FF8000000000000#64 = .nan := by decide +kernel

theorem witness_ReversedComparisonsAnswerTheWrittenRelation :
    Fmt.i8.isInt = true ∧ Fmt.f32.isFloat = true ∧ fdec .f32 0x3F800000#64 = .finite 0x800000 23 ∧
    fdec .f32 0x7F800000#64 = .posInf ∧ fdec .f32 0xFF800000#64 = .negInf ∧ fdec .f32 0x7FC00000#64 = .nan := by
  decide +kernel

/-- The statement's list gives each relation its answers on the infinities and NaN. -/
theorem witness_ReversedComparisonsAnswerTheWrittenRelation_list : ∃ rel : ℚ → ℚ → Bool,
    (Pseudo.foreignGe .s24 .f32, rel, true, false, false) ∈
      [(Pseudo.foreignGt .s24 .f32, fun u v => decide (u > v), true, false, false),
        (.foreignGe .s24 .f32, fun u v => decide (u ≥ v), true, false, false)] :=
  ⟨_, List.mem_cons_of_mem _ List.mem_cons_self⟩

end Sys2Proof.Tests
end

section
/-! PROOFS. The division primitives of spec/00_scope.md R12: the quotient as a rational floor, the remainder by sign and
magnitude. -/

namespace Sys2Proof.Machine

/-- R12 writes the quotient of the magnitudes as a rational floor; the model computes it as a quotient of naturals. -/
theorem floor_abs_div_abs (a b : Int) : ⌊(|a| : ℚ) / (|b| : ℚ)⌋ = ((a.natAbs / b.natAbs : Nat) : Int) := by
  rw [← Int.cast_abs, ← Int.cast_abs, ← Nat.cast_natAbs, ← Nat.cast_natAbs, Rat.floor_natCast_div_natCast,
    Int.natCast_div]

theorem natAbs_trem (a b : Int) : (trem a b).natAbs = a.natAbs % b.natAbs := by
  rw [trem_eq, Int.natAbs_tmod]

/-- The split is on divisibility: the remainder is zero exactly where `b` divides `a`. -/
theorem trem_eq_zero_or_sign_eq (a b : Int) : trem a b = 0 ∨ (trem a b).sign = a.sign := by
  rw [trem_eq]
  by_cases h : b ∣ a
  · exact .inl (Int.tmod_eq_zero_of_dvd h)
  · exact .inr (by rw [Int.sign_tmod, if_neg h])

theorem abs_trem_lt (a : Int) {b : Int} (hb : b ≠ 0) : |trem a b| < |b| := by
  have : a.natAbs % b.natAbs < b.natAbs := Nat.mod_lt _ (Int.natAbs_pos.mpr hb)
  rw [Int.abs_eq_natAbs, Int.abs_eq_natAbs, natAbs_trem]
  exact_mod_cast this

/-- Settles O22: the quotient by `floor_abs_div_abs`, the remainder by its sign and its magnitude. -/
theorem divisionPrimitives : Obligations.DivisionPrimitives := by
  intro a b hb
  refine ⟨?_, rfl, trem_eq_zero_or_sign_eq a b, abs_trem_lt a hb⟩
  rw [floor_abs_div_abs, tdiv]

end Sys2Proof.Machine
end

section
/-! PROOFS. Transactions that execute no command (spec/10_state.md R28 to R30): what a step leaves after a reset and
while halted. -/

namespace Sys2Proof.Machine

/-- When one of checks 1 to 3 of R228 applies, its state is what the step leaves, with the host's next transaction
presented. -/
theorem step_of_noCommand {s t : State} (h : noCommand s = some t) : step s = .next (presentNext t) := by
  simp only [step, h]

theorem step_reset {s : State} (h : s.inp.rst = true) : step s = .next (presentNext (resetBlock s)) :=
  step_of_noCommand (noCommand_reset h)

theorem step_halted {s : State} (hf : Halted s) (h : s.inp.rst = false) :
    step s = .next (presentNext (quiet s)) :=
  step_of_noCommand (noCommand_halted h hf)

/-- Settles O8: the step is `resetBlock` (`step_reset`), and presenting the next transaction keeps the fields named. -/
theorem resetClearsTheRecord : Obligations.ResetClearsTheRecord := by
  refine ⟨fun s h => ⟨_, step_reset h, ?_, ?_, ?_⟩, rfl, rfl⟩
  · rw [presentNext_record, resetBlock_record, FaultRecord.clear]
  · rw [presentNext_out, resetBlock_out, Outputs.zero]
  · rw [presentNext_params, resetBlock_params]

/-- Settles O9: the step is `quiet` (`step_halted`), and presenting the next transaction keeps the fields named. -/
theorem haltedIgnoresTransactions : Obligations.HaltedIgnoresTransactions := by
  refine fun s hf h => ⟨_, step_halted hf h, ?_, ?_, ?_⟩
  · rw [presentNext_record, quiet_record]
  · rw [presentNext_out, quiet_out, Outputs.zero]
  · rw [presentNext_params, quiet_params]

end Sys2Proof.Machine
end

section
/-! PROOFS. Stored words (spec/00_scope.md R11): `canon` keeps a word with a zero top byte, the logical value of a
stored word lies in the type's range, and encoding that value gives the stored word again. -/

namespace Sys2Proof.Machine

/-- The two parts of a word, split at bit 24, are the whole of it; so a word without an upper part is its lower one. -/
theorem canon_of_topByte_zero {w : HostWord} (h : w &&& 0xFF000000#32 = 0#32) : canon w = w :=
  calc canon w
    _ = (w &&& mask) ||| (w &&& 0xFF000000#32) := by rw [h, BitVec.or_zero, canon]
    _ = w &&& BitVec.allOnes 32 := by rw [← BitVec.and_or_distrib_left]; rfl
    _ = w := BitVec.and_allOnes

theorem inRange_lv_canon (t : Ty) (w : HostWord) : InRange t (lv t (canon w)) := by
  cases t with
  | s24 =>
    have hlo := BitVec.le_toInt (w.setWidth 24)
    have hhi := BitVec.toInt_lt (x := w.setWidth 24)
    rw [lv_s24_canon]
    simp only [InRange, minOf, maxOf]
    omega
  | u24 =>
    have hhi := (w.setWidth 24).isLt
    rw [lv_u24_canon]
    simp only [InRange, minOf, maxOf]
    omega

theorem enc_lv_canon (t : Ty) (w : HostWord) : enc t (lv t (canon w)) = canon w := by
  have h : ((enc t (lv t (canon w))).toNat : Int) = (canon w).toNat := by
    rw [enc, wrap_toNat, lv_canon_emod]
  exact BitVec.eq_of_toNat_eq (by exact_mod_cast h)

end Sys2Proof.Machine
end

section
/-! PROOFS. The two forms of sign extension (spec/40_representation.md R83). -/

namespace Sys2Proof.Machine

/-- The model's xor-and-subtract form by the sign bit: bit 23 counts `-2^23` where the stored word has it as `2^23`. -/
theorem sx24_eq_by_sign {w : HostWord} (h : canon w = w) :
    sx24 w = if w.getLsbD 23 then (w.toNat : Int) - 2 ^ 24 else (w.toNat : Int) := by
  have hn : (w.setWidth 24).toNat = w.toNat := by rw [BitVec.toNat_setWidth, ← canon_toNat, h]
  calc sx24 w
    _ = lv .s24 (canon w) := by rw [h, lv]
    _ = (w.setWidth 24).toInt := lv_s24_canon w
    _ = _ := by
      rw [BitVec.toInt_eq_msb_cond, BitVec.msb_setWidth, hn]
      simp

/-- The branching form's test reads bit 23. -/
theorem and_signBit_ne_zero_iff (w : HostWord) : w &&& 0x00800000#32 ≠ 0#32 ↔ w.getLsbD 23 = true := by
  rw [show 0x00800000#32 = BitVec.twoPow 32 23 by decide, BitVec.and_twoPow]
  cases w.getLsbD 23 <;> decide

/-- The branching form's negative arm: with its top byte set, a stored word reads as its number minus `2^24`. -/
theorem toInt_or_topByte {w : HostWord} (h : w &&& 0xFF000000#32 = 0#32) :
    (w ||| 0xFF000000#32).toInt = (w.toNat : Int) - 2 ^ 24 := by
  have hlt : w.toNat < 2 ^ 24 := canon_of_topByte_zero h ▸ canon_lt w
  rw [← BitVec.add_eq_or_of_and_eq_zero _ _ h, BitVec.toInt_eq_toNat_cond, BitVec.toNat_add,
    show (0xFF000000#32).toNat = 2 ^ 32 - 2 ^ 24 by decide]
  split <;> omega

/-- Settles O20: both forms are the word's number, minus `2^24` where bit 23 is set. -/
theorem signExtensionFormsAgree : Obligations.SignExtensionFormsAgree := by
  intro w h
  have hw := canon_of_topByte_zero h
  have hlt : w.toNat < 2 ^ 24 := hw ▸ canon_lt w
  have hrange : -8388608 ≤ sx24 w ∧ sx24 w ≤ 8388607 := by
    simpa only [InRange, lv, minOf, maxOf, hw] using inRange_lv_canon .s24 w
  have hpos : w.toInt = (w.toNat : Int) := BitVec.toInt_eq_toNat_of_lt (by omega)
  have hneg := toInt_or_topByte h
  have hsx := sx24_eq_by_sign hw
  simp only [and_signBit_ne_zero_iff]
  cases hb : w.getLsbD 23 with
  | false =>
    simp only [hb, Bool.false_eq_true, if_false] at hsx ⊢
    exact ⟨hsx.trans hpos.symm, fun _ => ⟨hsx, by omega, hrange.2⟩, False.elim⟩
  | true =>
    simp only [hb, if_true] at hsx ⊢
    exact ⟨hsx.trans hneg.symm, nofun, fun _ => ⟨hsx, hsx.trans hneg.symm, hrange.1, by omega⟩⟩

end Sys2Proof.Machine
end

section
/-! PROOFS. The commands of group `REP` (spec/40_representation.md R81 to R91): what each delivers, for both types at
once where the rule is one. -/

namespace Sys2Proof.Machine

/-! ### Commands that deliver a pattern (R81, R82, R85, R86) -/

theorem delivers_zero (t : Ty) (s : State) : Delivers (t.pick .zeroS .zeroU) s (yOnly 0#64) := by
  cases t <;> rfl

/-- A command that gives its canonical operand delivers bits 23:0 of port `A`. -/
theorem delivers_bits_of_giveValue_opA {i : Instr} {s : State} (h : exec i s = finish s (giveValue (opA s))) :
    Delivers i s (yOnly ((s.inp.a.setWidth 24).setWidth 64)) := by
  rw [Delivers, h, finish_giveValue, opA, canon_setWidth64]

theorem delivers_canon (t : Ty) (s : State) :
    Delivers (t.pick .canonS .canonU) s (yOnly ((s.inp.a.setWidth 24).setWidth 64)) :=
  delivers_bits_of_giveValue_opA (by cases t <;> rfl)

theorem delivers_raw (t : Ty) (s : State) :
    Delivers (t.pick .rawS .rawU) s (yOnly ((s.inp.a.setWidth 24).setWidth 64)) :=
  delivers_bits_of_giveValue_opA (by cases t <;> rfl)

theorem delivers_bitcast (t : Ty) (s : State) :
    Delivers (t.pick .bitcastS .bitcastU) s (yOnly ((s.inp.a.setWidth 24).setWidth 64)) :=
  delivers_bits_of_giveValue_opA (by cases t <;> rfl)

/-- Settles O24: each command by its lemma, at both types. -/
theorem patternCommandResults : Obligations.PatternCommandResults := by
  refine ⟨by decide, by decide, by decide, by decide, by decide, by decide, by decide, by decide, fun s => ?_⟩
  exact ⟨delivers_zero .s24 s, delivers_zero .u24 s, delivers_canon .s24 s, delivers_canon .u24 s,
    delivers_raw .s24 s, delivers_raw .u24 s, delivers_bitcast .s24 s, delivers_bitcast .u24 s⟩

/-! ### The logical value as an image (R84, R91) -/

/-- The two's-complement image of a signed logical value, at any width, is the sign extension of the 24 bits. -/
theorem ofInt_lv_s24_canon (n : Nat) (w : HostWord) :
    BitVec.ofInt n (lv .s24 (canon w)) = (w.setWidth 24).signExtend n := by
  rw [lv_s24_canon, BitVec.signExtend]

/-- The image of an unsigned logical value, at any width, is the zero extension of the 24 bits. -/
theorem ofInt_lv_u24_canon (n : Nat) (w : HostWord) :
    BitVec.ofInt n (lv .u24 (canon w)) = (w.setWidth 24).setWidth n := by
  rw [lv_u24_canon, BitVec.ofInt_natCast, BitVec.ofNat_toNat]

theorem delivers_value (t : Ty) (s : State) :
    Delivers (t.pick .valueS .valueU) s (yOnly ((BitVec.ofInt 32 (lv t (opA s))).setWidth 64)) := by
  cases t <;> rfl

theorem delivers_words (t : Ty) (s : State) :
    Delivers (t.pick .wordsS .wordsU) s (yOnly (BitVec.ofInt 64 (lv t (opA s)))) := by
  cases t <;> rfl

/-- Settles O25: both commands deliver an image of the logical value, and each type's image is its extension. -/
theorem logicalValueResults : Obligations.LogicalValueResults := by
  refine ⟨by decide, by decide, by decide, by decide, fun s => ⟨?_, ?_, ?_, ?_⟩⟩
  · exact ofInt_lv_s24_canon 32 s.inp.a ▸ delivers_value .s24 s
  · have hzext : ((s.inp.a.setWidth 24).setWidth 32).setWidth 64 = (s.inp.a.setWidth 24).setWidth 64 := by
      rw [← canon_eq_setWidth, canon_setWidth64]
    exact hzext ▸ ofInt_lv_u24_canon 32 s.inp.a ▸ delivers_value .u24 s
  · exact ofInt_lv_s24_canon 64 s.inp.a ▸ delivers_words .s24 s
  · exact ofInt_lv_u24_canon 64 s.inp.a ▸ delivers_words .u24 s

/-! ### Magnitude and sign (R88, R89) -/

theorem delivers_mag (t : Ty) (s : State) :
    Delivers (t.pick .magS .magU) s (yOnly ((enc .u24 ((lv t (opA s)).natAbs : Int)).setWidth 64)) := by
  cases t <;> rfl

/-- No magnitude is too large for a `U24`, that of `MIN_S` included, so its encoding loses nothing. -/
theorem toNat_enc_natAbs_lv_canon (t : Ty) (w : HostWord) :
    (((enc .u24 ((lv t (canon w)).natAbs : Int)).setWidth 64).toNat : Int) = |lv t (canon w)| := by
  have hrange : (lv t (canon w)).natAbs < 2 ^ 24 := by
    have h := inRange_lv_canon t w
    cases t <;> simp only [InRange, minOf, maxOf] at h <;> omega
  rw [BitVec.toNat_setWidth_of_le (by decide), enc, wrap_toNat, Int.abs_eq_natAbs]
  omega

/-- An unsigned operand is its own magnitude. -/
theorem enc_natAbs_lv_u24_opA (s : State) : enc .u24 ((lv .u24 (opA s)).natAbs : Int) = opA s := by
  rw [opA, Int.natAbs_of_nonneg (inRange_lv_canon .u24 s.inp.a).1, enc_lv_canon]

/-- The three words of `SIGNUM` (R89), by the sign of the value. -/
theorem enc_sign_setWidth64 (t : Ty) (v : Int) :
    (enc t ((if 0 < v then 1 else 0) - (if v < 0 then 1 else 0))).setWidth 64 =
      if 0 < v then 1#64 else if v < 0 then 0xFFFFFF#64 else 0#64 := by
  rcases lt_trichotomy v 0 with hneg | rfl | hpos
  · rw [if_neg hneg.not_gt, if_pos hneg, if_neg hneg.not_gt, if_pos hneg]; rfl
  · rfl
  · rw [if_pos hpos, if_neg hpos.not_gt, if_pos hpos]; rfl

theorem delivers_signum (t : Ty) (s : State) :
    Delivers (t.pick .signumS .signumU) s
      (yOnly (if 0 < lv t (opA s) then 1#64 else if lv t (opA s) < 0 then 0xFFFFFF#64 else 0#64)) := by
  rw [Delivers, ← enc_sign_setWidth64 t]
  cases t <;> rfl

/-- Settles O26: `MAG` by the range of the logical value, `SIGNUM` by its sign, which no unsigned value has below 0. -/
theorem magnitudeAndSignResults : Obligations.MagnitudeAndSignResults := by
  refine ⟨by decide, by decide, by decide, by decide, fun s => ⟨?_, ?_, ?_, ?_⟩⟩
  · exact ⟨_, delivers_mag .s24 s, toNat_enc_natAbs_lv_canon .s24 s.inp.a⟩
  · simpa only [Ty.pick, enc_natAbs_lv_u24_opA] using delivers_mag .u24 s
  · exact delivers_signum .s24 s
  · have hnonneg : ¬ lv .u24 (opA s) < 0 := (inRange_lv_canon .u24 s.inp.a).1.not_gt
    simpa only [Ty.pick, hnonneg, if_false] using delivers_signum .u24 s

end Sys2Proof.Machine
end

section
/-! PROOFS. What the arithmetic commands of spec/41_arithmetic.md R104 to R123 share: an integer in range survives its
encoding, and division of in-range operands stays in range wherever the overflow test is clear. -/

namespace Sys2Proof.Machine

theorem sx24_wrap (t : Ty) (i : Int) : sx24 (wrap t i) = (BitVec.ofInt 24 i).toInt := by
  rw [BitVec.toInt_ofInt]
  exact lv_s24_wrap t i

theorem lv_enc {t : Ty} {i : Int} (h : InRange t i) : lv t (enc t i) = i := by
  cases t with
  | s24 =>
    obtain ⟨hlo, hhi⟩ : -8388608 ≤ i ∧ i ≤ 8388607 := h
    rw [enc, lv_s24_wrap]
    exact Int.bmod_eq_of_le (by omega) (by omega)
  | u24 =>
    obtain ⟨hlo, hhi⟩ : 0 ≤ i ∧ i ≤ 16777215 := h
    rw [enc, lv_u24_wrap]
    exact Int.emod_eq_of_lt hlo (by omega)

theorem inRange_opA (t : Ty) (s : State) : InRange t (lv t (opA s)) := inRange_lv_canon t s.inp.a

theorem inRange_opB (t : Ty) (s : State) : InRange t (lv t (opB s)) := inRange_lv_canon t s.inp.b

theorem inRange_opC (t : Ty) (s : State) : InRange t (lv t (opC s)) := inRange_lv_canon t s.inp.c

theorem natAbs_trem_lt (a : Int) {b : Int} (hb : b ≠ 0) : (trem a b).natAbs < b.natAbs :=
  natAbs_trem a b ▸ Nat.mod_lt _ (Int.natAbs_pos.mpr hb)

/-- A remainder is smaller than an in-range divisor, and takes its sign from the dividend, of any size. -/
theorem inRange_trem {t : Ty} {n d : Int} (hn : t = .u24 → 0 ≤ n) (hd : InRange t d) (h0 : d ≠ 0) :
    InRange t (trem n d) := by
  have hlt := natAbs_trem_lt n h0
  cases t with
  | s24 => simp only [InRange, minOf, maxOf] at hd ⊢; omega
  | u24 =>
    have hnonneg : 0 ≤ trem n d := trem_eq n d ▸ Int.tmod_nonneg d (hn rfl)
    simp only [InRange, minOf, maxOf] at hd ⊢
    omega

theorem natAbs_tdiv_le (a b : Int) : (tdiv a b).natAbs ≤ a.natAbs := tdiv_eq a b ▸ Int.natAbs_tdiv_le_natAbs a b

/-- No quotient is larger in magnitude than its dividend, so only `2^23` could leave the range; the division equation
has that quotient for `MIN_S` by -1 alone. -/
theorem inRange_tdiv {t : Ty} {a b : Int} (ha : InRange t a) (hb : InRange t b) (h0 : b ≠ 0)
    (hmin : ¬(t = .s24 ∧ a = -8388608 ∧ b = -1)) : InRange t (tdiv a b) := by
  have hle := natAbs_tdiv_le a b
  cases t with
  | s24 =>
    have hlt := natAbs_trem_lt a h0
    have hne : tdiv a b ≠ 8388608 := by
      intro hq
      rw [trem, hq] at hlt
      simp only [InRange, minOf, maxOf, true_and] at ha hmin
      omega
    simp only [InRange, minOf, maxOf] at ha ⊢
    omega
  | u24 =>
    have hnonneg : 0 ≤ tdiv a b := tdiv_eq a b ▸ Int.tdiv_nonneg ha.1 hb.1
    simp only [InRange, minOf, maxOf] at ha ⊢
    omega

theorem divOverflow_iff (t : Ty) (va vb : Int) :
    divOverflow t va vb = true ↔ vb = 0 ∨ (t = .s24 ∧ va = -8388608 ∧ vb = -1) := by
  rw [divOverflow_eq, decide_eq_true_iff]

/-- Where the division's overflow test is clear, quotient and remainder are both in range. -/
theorem inRange_tdiv_trem {t : Ty} {a b : Int} (ha : InRange t a) (hb : InRange t b)
    (h : ¬divOverflow t a b = true) : InRange t (tdiv a b) ∧ InRange t (trem a b) := by
  rw [divOverflow_iff, not_or] at h
  obtain ⟨h0, hmin⟩ := h
  exact ⟨inRange_tdiv ha hb h0 hmin, inRange_trem (fun ht => by subst ht; exact ha.1) hb h0⟩

theorem mul_tdiv_add_trem (a b : Int) : b * tdiv a b + trem a b = a := by
  rw [trem_eq, tdiv_eq, Int.mul_tdiv_add_tmod]

end Sys2Proof.Machine
end

section
/-! PROOFS. The checked forms of group `ARC` (spec/41_arithmetic.md R104 to R107, R110 to R113). -/

namespace Sys2Proof.Machine

/-! ### Sum and difference -/

theorem delivers_addro (t : Ty) (s : State) :
    Delivers (t.pick .addroS .addroU) s ⟨(BitVec.ofInt 24 (lv t (opA s) + lv t (opB s))).setWidth 64, 0#32,
      addOverflow t (lv t (opA s)) (lv t (opB s)), true⟩ := by
  rw [Delivers, ← wrap_setWidth64 t]
  cases t <;> rfl

theorem delivers_subro (t : Ty) (s : State) :
    Delivers (t.pick .subroS .subroU) s ⟨(BitVec.ofInt 24 (lv t (opA s) - lv t (opB s))).setWidth 64, 0#32,
      subOverflow t (lv t (opA s)) (lv t (opB s)), true⟩ := by
  rw [Delivers, ← wrap_setWidth64 t]
  cases t <;> rfl

theorem neg_beq_neg (v w : Int) : (neg v == neg w) = decide (v < 0 ↔ w < 0) := by
  rw [neg, neg, Bool.beq_eq_decide_eq, decide_eq_decide, decide_eq_decide]

/-- The signed overflow test of a sum, with the wrapped sum read as a 24-bit two's-complement number. -/
theorem addOverflow_s24 (va vb : Int) :
    addOverflow .s24 va vb =
      decide ((va < 0 ↔ vb < 0) ∧ ¬((BitVec.ofInt 24 (va + vb)).toInt < 0 ↔ va < 0)) := by
  rw [addOverflow, sx24_wrap, bne, neg_beq_neg, neg_beq_neg, Bool.decide_and, decide_not]

/-- The signed overflow test of a difference, with the wrapped difference read as a 24-bit two's-complement number. -/
theorem subOverflow_s24 (va vb : Int) :
    subOverflow .s24 va vb =
      decide (¬(va < 0 ↔ vb < 0) ∧ ¬((BitVec.ofInt 24 (va - vb)).toInt < 0 ↔ va < 0)) := by
  rw [subOverflow, sx24_wrap, bne, bne, neg_beq_neg, neg_beq_neg, Bool.decide_and, decide_not, decide_not]

/-- Settles O28: both commands deliver the wrapped result; the signed tests are `addOverflow_s24` and
`subOverflow_s24`, and the unsigned ones are the model's own comparisons. -/
theorem checkedAddSubResults : Obligations.CheckedAddSubResults := by
  refine ⟨by decide, by decide, by decide, by decide, fun s => ?_⟩
  refine ⟨?_, ?_, delivers_addro .u24 s, delivers_subro .u24 s⟩
  · have h := delivers_addro .s24 s
    rw [addOverflow_s24] at h
    exact h
  · have h := delivers_subro .s24 s
    rw [subOverflow_s24] at h
    exact h

/-! ### Quotient and remainder -/

theorem delivers_divro (t : Ty) (s : State) :
    Delivers (t.pick .divroS .divroU) s
      ⟨(if divOverflow t (lv t (opA s)) (lv t (opB s)) then 0#32
          else enc t (tdiv (lv t (opA s)) (lv t (opB s)))).setWidth 64, 0#32,
        divOverflow t (lv t (opA s)) (lv t (opB s)), true⟩ := by
  cases t <;> rfl

/-- The flag of `REMRO` is the division's (`remOverflow_eq`). -/
theorem delivers_remro (t : Ty) (s : State) :
    Delivers (t.pick .remroS .remroU) s
      ⟨(if divOverflow t (lv t (opA s)) (lv t (opB s)) then 0#32
          else enc t (trem (lv t (opA s)) (lv t (opB s)))).setWidth 64, 0#32,
        divOverflow t (lv t (opA s)) (lv t (opB s)), true⟩ := by
  cases t <;> rfl

/-- Settles O30: the two commands on either answer of the overflow test; the ranges are `inRange_tdiv_trem`. -/
theorem checkedDivRemResults : Obligations.CheckedDivRemResults := by
  refine ⟨by decide, by decide, by decide, by decide, fun t s => ?_⟩
  have hdiv := delivers_divro t s
  have hrem := delivers_remro t s
  refine ⟨fun hbad => ?_, fun hgood => ?_⟩
  · rw [(divOverflow_iff ..).mpr hbad] at hdiv hrem
    exact ⟨hdiv, hrem⟩
  · have hclear := mt (divOverflow_iff ..).mp hgood
    obtain ⟨hq, hr⟩ := inRange_tdiv_trem (inRange_opA t s) (inRange_opB t s) hclear
    rw [Bool.eq_false_of_not_eq_true hclear] at hdiv hrem
    exact ⟨hq, hr, hdiv, hrem⟩

end Sys2Proof.Machine
end

section
/-! PROOFS. The trapping divisions of group `ARU` (spec/41_arithmetic.md R118 to R123). -/

namespace Sys2Proof.Machine

/-! ### `DIV`, `REM` and `DIVREM` -/

theorem exec_div (t : Ty) (s : State) :
    exec (t.pick .divS .divU) s = finish s (if divOverflow t (lv t (opA s)) (lv t (opB s)) then .fatal .overflow
      else giveValue (enc t (tdiv (lv t (opA s)) (lv t (opB s))))) := by
  cases t <;> rfl

/-- `REM` traps where `DIV` does (`remOverflow_eq`). -/
theorem exec_rem (t : Ty) (s : State) :
    exec (t.pick .remS .remU) s = finish s (if divOverflow t (lv t (opA s)) (lv t (opB s)) then .fatal .overflow
      else giveValue (enc t (trem (lv t (opA s)) (lv t (opB s))))) := by
  cases t <;> rfl

theorem exec_divrem (t : Ty) (s : State) :
    exec (t.pick .divremS .divremU) s =
      finish s (if divOverflow t (lv t (opA s)) (lv t (opB s)) then .fatal .overflow
        else givePair (enc t (tdiv (lv t (opA s)) (lv t (opB s)))) (enc t (trem (lv t (opA s)) (lv t (opB s))))) := by
  cases t <;> rfl

theorem traps_of_fatal {i : Instr} {s : State} {c : Cause} (h : exec i s = finish s (.fatal c)) : Traps i s c := h

theorem delivers_of_done {i : Instr} {s : State} {o : Outputs} (h : exec i s = finish s (.done o)) :
    Delivers i s o := h

/-- Settles O34: the three commands on either answer of the one overflow test; the delivered pair reads back as
quotient and remainder (`lv_enc`), since both are in range. -/
theorem trappingDivisionResults : Obligations.TrappingDivisionResults := by
  refine ⟨by decide, by decide, by decide, by decide, by decide, by decide, fun t s => ?_⟩
  have hdiv := exec_div t s
  have hrem := exec_rem t s
  have hpair := exec_divrem t s
  refine ⟨fun hgood => ?_, fun hbad => ?_⟩
  · have hclear := mt (divOverflow_iff ..).mp hgood
    obtain ⟨hq, hr⟩ := inRange_tdiv_trem (inRange_opA t s) (inRange_opB t s) hclear
    rw [if_neg hclear] at hdiv hrem hpair
    refine ⟨delivers_of_done hdiv, delivers_of_done hrem, delivers_of_done hpair, ?_⟩
    rw [lv_enc hq, lv_enc hr, mul_tdiv_add_trem]
  · rw [if_pos ((divOverflow_iff ..).mpr hbad)] at hdiv hrem hpair
    exact ⟨traps_of_fatal hdiv, traps_of_fatal hrem, traps_of_fatal hpair⟩

/-! ### `DIVFW` -/

theorem exec_divfw (t : Ty) (s : State) :
    exec (t.pick .divfwS .divfwU) s = finish s (divfwRule t (opA s) (opB s) (opC s)) := by
  cases t <;> rfl

theorem fullWidth_eq (t : Ty) (high low : HostWord) :
    fullWidth t high low = lv t high * 16777216 + (low.toNat : Int) := by
  rw [fullWidth]; norm_num

theorem fullWidth_u24_nonneg (high low : HostWord) : 0 ≤ fullWidth .u24 high low := by
  rw [fullWidth_eq, lv]; omega

/-- The remainder's range test never fails by itself (R121, R122): a signed remainder is smaller than its divisor, and
an unsigned dividend has no sign to give it. -/
theorem inRange_trem_fullWidth {t : Ty} {d : Int} (high low : HostWord) (hd : InRange t d) (h0 : d ≠ 0) :
    InRange t (trem (fullWidth t high low) d) :=
  inRange_trem (fun ht => by subst ht; exact fullWidth_u24_nonneg high low) hd h0

theorem divfwRule_of_inRange {t : Ty} {high low d : HostWord} (h0 : lv t d ≠ 0)
    (hq : InRange t (tdiv (fullWidth t high low) (lv t d)))
    (hr : InRange t (trem (fullWidth t high low) (lv t d))) :
    divfwRule t high low d = givePair (enc t (tdiv (fullWidth t high low) (lv t d)))
      (enc t (trem (fullWidth t high low) (lv t d))) := by
  rw [divfwRule, if_neg h0, if_neg (not_or.mpr ⟨not_not.mpr hq, not_not.mpr hr⟩)]

theorem divfwRule_fatal {t : Ty} {high low d : HostWord}
    (h : lv t d = 0 ∨ ¬InRange t (tdiv (fullWidth t high low) (lv t d))) :
    divfwRule t high low d = .fatal .fwdiv := by
  rw [divfwRule]
  split_ifs with h0 hout
  · rfl
  · rfl
  · exact absurd (.inl (h.resolve_left h0)) hout

/-- Settles O37: the rule's three tests are two, since the remainder is always in range. -/
theorem fullWidthDivisionResults : Obligations.FullWidthDivisionResults := by
  refine ⟨by decide, by decide, fun t s => ?_⟩
  have hexec := exec_divfw t s
  have hrange := inRange_trem_fullWidth (opA s) (opB s) (inRange_opC t s)
  simp only [← fullWidth_eq]
  refine ⟨fun h0 _ => hrange h0, fun h0 hq => ?_, fun h => ?_⟩
  · rw [divfwRule_of_inRange h0 hq (hrange h0)] at hexec
    exact delivers_of_done hexec
  · rw [divfwRule_fatal h] at hexec
    exact traps_of_fatal hexec

/-! ### `ISMULT` -/

/-- R123's two cases are one: also with a zero divisor, whose one multiple is 0, the answer is divisibility. -/
theorem ismultRule_eq (t : Ty) (a b : HostWord) : ismultRule t a b = giveBool (decide (lv t b ∣ lv t a)) := by
  rw [ismultRule]
  split_ifs with h0
  · simp only [h0, zero_dvd_iff]
  · simp only [trem_eq, Int.dvd_iff_tmod_eq_zero]

theorem delivers_ismult (t : Ty) (s : State) :
    Delivers (t.pick .ismultS .ismultU) s (yBool (decide (lv t (opB s) ∣ lv t (opA s)))) := by
  rw [Delivers, ← finish_giveBool, ← ismultRule_eq]
  cases t <;> rfl

/-- Settles O39: `ISMULT` decides divisibility, which is the existence of the factor. -/
theorem isMultipleResults : Obligations.IsMultipleResults := by
  refine ⟨by decide, by decide, fun t s => ?_⟩
  have h := delivers_ismult t s
  simp only [← dvd_iff_exists_eq_mul_left]
  refine ⟨fun hdvd => ?_, fun hndvd => ?_⟩
  · rw [decide_eq_true hdvd] at h
    exact h
  · rw [decide_eq_false hndvd] at h
    exact h

end Sys2Proof.Machine
end

section
/-! PROOFS. The bitwise commands of group `BIT` (spec/42_bits_shifts.md R141 to R144): each operation on stored words
is the same operation on their 24 bits. -/

namespace Sys2Proof.Machine

theorem canon_and (v w : HostWord) : canon v &&& canon w = canon (v &&& w) := by
  simp only [canon_eq_setWidth, BitVec.setWidth_and]

theorem canon_or (v w : HostWord) : canon v ||| canon w = canon (v ||| w) := by
  simp only [canon_eq_setWidth, BitVec.setWidth_or]

theorem canon_xor (v w : HostWord) : canon v ^^^ canon w = canon (v ^^^ w) := by
  simp only [canon_eq_setWidth, BitVec.setWidth_xor]

theorem canon_not (w : HostWord) : canon (~~~w) = (~~~(w.setWidth 24)).setWidth 32 := by
  rw [canon_eq_setWidth, BitVec.setWidth_not (by decide)]

/-- The bits 31:24 that the complement of a stored word sets are masked away again. -/
theorem canon_not_canon (w : HostWord) : canon (~~~canon w) = canon (~~~w) := by
  rw [canon_not, canon_not, canon_setWidth24]

theorem delivers_and (t : Ty) (s : State) :
    Delivers (t.pick .andS .andU) s (yOnly ((s.inp.a.setWidth 24 &&& s.inp.b.setWidth 24).setWidth 64)) := by
  rw [Delivers, ← BitVec.setWidth_and, ← canon_setWidth64, ← canon_and]
  cases t <;> rfl

theorem delivers_or (t : Ty) (s : State) :
    Delivers (t.pick .orS .orU) s (yOnly ((s.inp.a.setWidth 24 ||| s.inp.b.setWidth 24).setWidth 64)) := by
  rw [Delivers, ← BitVec.setWidth_or, ← canon_setWidth64, ← canon_or]
  cases t <;> rfl

theorem delivers_xor (t : Ty) (s : State) :
    Delivers (t.pick .xorS .xorU) s (yOnly ((s.inp.a.setWidth 24 ^^^ s.inp.b.setWidth 24).setWidth 64)) := by
  rw [Delivers, ← BitVec.setWidth_xor, ← canon_setWidth64, ← canon_xor]
  cases t <;> rfl

theorem delivers_not (t : Ty) (s : State) :
    Delivers (t.pick .notS .notU) s (yOnly ((~~~(s.inp.a.setWidth 24)).setWidth 64)) := by
  rw [Delivers, ← BitVec.setWidth_not (show 24 ≤ 32 by decide), ← canon_setWidth64, ← canon_not_canon]
  cases t <;> rfl

theorem toInt_not_eq_neg_sub_one (b : BitVec 24) : (~~~b).toInt = -b.toInt - 1 := by
  have hlt := b.isLt
  rw [BitVec.toInt_eq_toNat_cond, BitVec.toInt_eq_toNat_cond, BitVec.toNat_not]
  split_ifs <;> omega

theorem lv_s24_canon_not (w : HostWord) : lv .s24 (canon (~~~w)) = -lv .s24 (canon w) - 1 := by
  rw [lv_s24_canon, lv_s24_canon, BitVec.setWidth_not (by decide), toInt_not_eq_neg_sub_one]

theorem lv_u24_canon_not (w : HostWord) : lv .u24 (canon (~~~w)) = 16777215 - lv .u24 (canon w) := by
  have hlt := (w.setWidth 24).isLt
  rw [lv_u24_canon, lv_u24_canon, BitVec.setWidth_not (by decide), BitVec.toNat_not]
  omega

/-- Settles O40: each command by its lemma at both types; the complement's 24 bits are the stored word whose values
`lv_s24_canon_not` and `lv_u24_canon_not` give. -/
theorem bitwiseResults : Obligations.BitwiseResults := by
  refine ⟨by decide, by decide, by decide, by decide, by decide, by decide, by decide, by decide, fun t s => ?_⟩
  refine ⟨delivers_and t s, delivers_or t s, delivers_xor t s, delivers_not t s, ?_, ?_⟩
  · exact canon_not s.inp.a ▸ lv_s24_canon_not s.inp.a
  · exact canon_not s.inp.a ▸ lv_u24_canon_not s.inp.a

end Sys2Proof.Machine
end

section
/-! PROOFS. The byte swap of group `BIT` (spec/42_bits_shifts.md R150). -/

namespace Sys2Proof.Machine

/-- Byte `k` of the swapped word is byte `2 - k` of the operand (R42 numbers the bytes). -/
theorem getLsbD_swapBytes {k j : Nat} (hk : k < 3) (hj : j < 8) (w : HostWord) :
    (swapBytes w).getLsbD (8 * k + j) = w.getLsbD (8 * (2 - k) + j) := by
  simp only [swapBytes, BitVec.getLsbD_setWidth, BitVec.getLsbD_append, BitVec.getLsbD_extractLsb']
  interval_cases k <;> grind

theorem getLsbD_swapBytes_of_le {i : Nat} (hi : 24 ≤ i) (w : HostWord) : (swapBytes w).getLsbD i = false := by
  rw [swapBytes, BitVec.getLsbD_setWidth, BitVec.getLsbD_of_ge _ _ hi, Bool.and_false]

/-- A stored word has the bits 23:0 of the word and no others. -/
theorem getLsbD_canon (w : HostWord) (i : Nat) : (canon w).getLsbD i = (decide (i < 24) && w.getLsbD i) := by
  rw [← BitVec.testBit_toNat, canon_toNat, Nat.testBit_mod_two_pow, BitVec.testBit_toNat]

/-- Only the three stored bytes are read. -/
theorem swapBytes_canon (w : HostWord) : swapBytes (canon w) = swapBytes w := by
  have hbyte {i : Nat} (hi : i + 8 ≤ 24) : (canon w).extractLsb' i 8 = w.extractLsb' i 8 := by
    rw [canon_eq_setWidth, BitVec.extractLsb'_setWidth_of_le (by omega), BitVec.extractLsb'_setWidth_of_le hi]
  rw [swapBytes, hbyte (by decide), hbyte (by decide), hbyte (by decide), swapBytes]

theorem swapBytes_swapBytes (w : HostWord) : swapBytes (swapBytes w) = canon w := by
  refine BitVec.eq_of_getLsbD_eq fun i _ => ?_
  rw [getLsbD_canon]
  by_cases hi : i < 24
  · obtain ⟨k, j, hk, hj, rfl⟩ : ∃ k j, k < 3 ∧ j < 8 ∧ i = 8 * k + j := ⟨i / 8, i % 8, by omega⟩
    rw [getLsbD_swapBytes hk hj, getLsbD_swapBytes (by omega) hj, Nat.sub_sub_self (by omega), decide_eq_true hi,
      Bool.true_and]
  · rw [getLsbD_swapBytes_of_le (by omega), decide_eq_false hi, Bool.false_and]

/-- The byte of `Y` at bit `8 * k` is the operand's byte `2 - k`. -/
theorem extractLsb'_swapBytes_setWidth64 {k : Nat} (hk : k < 3) (w : HostWord) :
    ((swapBytes w).setWidth 64).extractLsb' (8 * k) 8 = w.extractLsb' (8 * (2 - k)) 8 := by
  rw [BitVec.extractLsb'_setWidth_of_le (by omega)]
  refine BitVec.eq_of_getLsbD_eq fun j hj => ?_
  rw [BitVec.getLsbD_extractLsb', BitVec.getLsbD_extractLsb', getLsbD_swapBytes hk hj]

theorem extractLsb'_swapBytes_setWidth64_above (w : HostWord) :
    ((swapBytes w).setWidth 64).extractLsb' 24 40 = 0#40 := by
  refine BitVec.eq_of_getLsbD_eq fun j _ => ?_
  rw [BitVec.getLsbD_extractLsb', BitVec.getLsbD_setWidth, getLsbD_swapBytes_of_le (by omega), Bool.and_false,
    Bool.and_false, BitVec.getLsbD_zero]

theorem delivers_bswap (t : Ty) (s : State) :
    Delivers (t.pick .bswapS .bswapU) s (yOnly ((swapBytes s.inp.a).setWidth 64)) := by
  rw [Delivers, ← swapBytes_canon]
  cases t <;> rfl

/-- Settles O44: the bytes of `Y` by `extractLsb'_swapBytes_setWidth64`; fed back to port `A`, the swapped word is
swapped again to the stored operand (`swapBytes_swapBytes`). -/
theorem byteSwapResults : Obligations.ByteSwapResults := by
  refine ⟨by decide, by decide, fun t s => ?_⟩
  refine ⟨(swapBytes s.inp.a).setWidth 64, delivers_bswap t s, ?_, ?_, ?_, ?_, ?_⟩
  · exact extractLsb'_swapBytes_setWidth64 (k := 2) (by decide) s.inp.a
  · exact extractLsb'_swapBytes_setWidth64 (k := 1) (by decide) s.inp.a
  · exact extractLsb'_swapBytes_setWidth64 (k := 0) (by decide) s.inp.a
  · exact extractLsb'_swapBytes_setWidth64_above s.inp.a
  · have hback : ((swapBytes s.inp.a).setWidth 64).setWidth 32 = swapBytes s.inp.a := by
      rw [BitVec.setWidth_setWidth_of_le _ (by decide), BitVec.setWidth_eq]
    rw [hback, ← canon_setWidth64, ← swapBytes_swapBytes]
    exact delivers_bswap t { s with inp := { s.inp with a := swapBytes s.inp.a } }

end Sys2Proof.Machine
end

section
/-! PROOFS. The counting primitives (spec/00_scope.md R13): the zero counts are where a scan of the bits stops, and the
bits it passed bound or divide the word's number. -/

namespace Sys2Proof.Machine

theorem popcount24_canon (w : HostWord) :
    popcount24 (canon w) = (Finset.univ.filter fun k : Fin 24 => w.getLsbD k = true).card := by
  have hbits : ∀ i ∈ List.range 24, (canon w).getLsbD i = decide (w.getLsbD i = true) := by
    intro i hi
    rw [getLsbD_canon, decide_eq_true (List.mem_range.mp hi), Bool.true_and, Bool.decide_eq_true]
  rw [popcount24, List.filter_congr hbits, Finset.card_filter,
    Fin.sum_univ_eq_sum_range (fun k => if w.getLsbD k = true then 1 else 0), ← Finset.card_filter]
  rfl

/-- Where a scan of `0, 1, …, n - 1` stops: at the first number the test fails on, or past the end. -/
theorem length_takeWhile_range (p : Nat → Bool) (n : Nat) :
    ((List.range n).takeWhile p).length ≤ n ∧
    (∀ i < ((List.range n).takeWhile p).length, p i = true) ∧
    (((List.range n).takeWhile p).length < n → p ((List.range n).takeWhile p).length = false) := by
  have hlen : ((List.range n).takeWhile p).length = (List.range n).findIdx (fun i => !p i) := by
    rw [List.takeWhile_eq_take_findIdx_not, List.length_take, min_eq_left List.findIdx_le_length]
  rw [hlen]
  refine ⟨List.findIdx_le_length.trans_eq List.length_range, fun i hi => ?_, fun h => ?_⟩
  · simpa using List.not_of_lt_findIdx hi
  · have hstop := List.findIdx_getElem (p := fun i => !p i) (w := h.trans_eq List.length_range.symm)
    simpa using hstop

/-- R13: the bits a leading-zero count passes are 0, and the bit below them is 1. -/
theorem clz32_spec (w : HostWord) :
    clz32 w ≤ 32 ∧ (∀ i < 32, 32 - clz32 w ≤ i → w.getLsbD i = false) ∧
    (clz32 w < 32 → w.getLsbD (31 - clz32 w) = true) := by
  obtain ⟨hle, hpassed, hstop⟩ := length_takeWhile_range (fun i => !w.getLsbD (31 - i)) 32
  rw [← clz32] at hle hpassed hstop
  refine ⟨hle, fun i hi hn => ?_, fun h => by simpa using hstop h⟩
  have h := hpassed (31 - i) (by omega)
  rwa [Nat.sub_sub_self (by omega), Bool.not_eq_true'] at h

/-- R13: the bits a trailing-zero count passes are 0, and the bit above them is 1. -/
theorem ctz32_spec (w : HostWord) :
    ctz32 w ≤ 32 ∧ (∀ i < ctz32 w, w.getLsbD i = false) ∧ (ctz32 w < 32 → w.getLsbD (ctz32 w) = true) := by
  obtain ⟨hle, hpassed, hstop⟩ := length_takeWhile_range (fun i => !w.getLsbD i) 32
  rw [← ctz32] at hle hpassed hstop
  exact ⟨hle, fun i hi => by simpa using hpassed i hi, fun h => by simpa using hstop h⟩

theorem two_pow_le_toNat_of_getLsbD {n i : Nat} {w : BitVec n} (h : w.getLsbD i = true) : 2 ^ i ≤ w.toNat :=
  Nat.ge_two_pow_of_testBit (by rwa [BitVec.testBit_toNat])

theorem toNat_lt_two_pow_sub_clz32 (w : HostWord) : w.toNat < 2 ^ (32 - clz32 w) := by
  obtain ⟨_, hzeros, _⟩ := clz32_spec w
  refine Nat.lt_pow_two_of_testBit _ fun i hi => ?_
  rw [BitVec.testBit_toNat]
  by_cases h : i < 32
  · exact hzeros i h hi
  · exact BitVec.getLsbD_of_ge w i (by omega)

theorem two_pow_ctz32_dvd_toNat (w : HostWord) : 2 ^ ctz32 w ∣ w.toNat := by
  obtain ⟨_, hzeros, _⟩ := ctz32_spec w
  refine Nat.dvd_of_mod_eq_zero (Nat.zero_of_testBit_eq_false fun i => ?_)
  rw [Nat.testBit_mod_two_pow, BitVec.testBit_toNat]
  by_cases h : i < ctz32 w
  · rw [hzeros i h, Bool.and_false]
  · rw [decide_eq_false h, Bool.false_and]

/-- A number other than zero is not below a power of two that divides it. -/
theorem ctz32_lt_of_toNat_lt {w : HostWord} {n : Nat} (h0 : w ≠ 0#32) (h : w.toNat < 2 ^ n) : ctz32 w < n := by
  have hpos : 0 < w.toNat := Nat.pos_of_ne_zero fun h => h0 (BitVec.eq_of_toNat_eq h)
  have hle := Nat.le_of_dvd hpos (two_pow_ctz32_dvd_toNat w)
  exact (Nat.pow_lt_pow_iff_right (by decide)).mp (hle.trans_lt h)

/-- A word below `2^24` has at least the eight leading zeros `LZ_BIAS` takes off. -/
theorem lzBias_le_clz32 {w : HostWord} (h : w.toNat < 2 ^ 24) : lzBias ≤ clz32 w := by
  obtain ⟨_, _, hone⟩ := clz32_spec w
  by_contra hfew
  rw [lzBias] at hfew
  have hle := two_pow_le_toNat_of_getLsbD (hone (by omega))
  have hbelow : 31 - clz32 w < 24 := (Nat.pow_lt_pow_iff_right (by decide)).mp (hle.trans_lt h)
  omega

/-- R153 within 24 bits: the count is the place of the highest one bit, by the powers of two around the number. -/
theorem clz32_sub_lzBias_spec {a : HostWord} (ha : a.toNat < 2 ^ 24) :
    clz32 a - lzBias ≤ 24 ∧ a.toNat < 2 ^ (24 - (clz32 a - lzBias)) ∧
    (clz32 a - lzBias < 24 → 2 ^ (23 - (clz32 a - lzBias)) ≤ a.toNat) := by
  obtain ⟨hle, _, hone⟩ := clz32_spec a
  have hlt := toNat_lt_two_pow_sub_clz32 a
  have hbias := lzBias_le_clz32 ha
  rw [lzBias] at hbias ⊢
  refine ⟨by omega, ?_, fun h => ?_⟩
  · rwa [show 24 - (clz32 a - 8) = 32 - clz32 a by omega]
  · rw [show 23 - (clz32 a - 8) = 31 - clz32 a by omega]
    exact two_pow_le_toNat_of_getLsbD (hone (by omega))

/-- R154 for a stored word other than zero: the count is the place of the lowest one bit. -/
theorem ctz32_spec_of_ne_zero {a : HostWord} (h0 : a ≠ 0#32) (ha : a.toNat < 2 ^ 24) :
    ctz32 a < 24 ∧ 2 ^ ctz32 a ∣ a.toNat ∧ a.toNat / 2 ^ ctz32 a % 2 = 1 := by
  obtain ⟨_, _, hone⟩ := ctz32_spec a
  have hlt := ctz32_lt_of_toNat_lt h0 ha
  have hbit := hone (by omega)
  rw [← BitVec.testBit_toNat, Nat.testBit_eq_decide_div_mod_eq, decide_eq_true_iff] at hbit
  exact ⟨hlt, two_pow_ctz32_dvd_toNat a, hbit⟩

end Sys2Proof.Machine
end

section
/-! PROOFS. The bit counts of group `BIT` (spec/42_bits_shifts.md R152 to R154). -/

namespace Sys2Proof.Machine

/-- The early answer for a negative `S24` is the one the count gives too. -/
theorem clzRule_eq (t : Ty) (a : HostWord) : clzRule t a = giveCount (clz32 a - lzBias) := by
  rw [clzRule]
  split_ifs with h
  · obtain ⟨_, hsign⟩ := h
    obtain ⟨_, hzeros, _⟩ := clz32_spec a
    have hle : clz32 a ≤ lzBias := by
      by_contra hgt
      rw [lzBias] at hgt
      exact absurd (hzeros 23 (by decide) (by omega)) (ne_true_of_eq_false · hsign)
    rw [Nat.sub_eq_zero_of_le hle]
  · rfl

theorem delivers_popcnt (t : Ty) (s : State) :
    Delivers (t.pick .popcntS .popcntU) s (yOnly (BitVec.ofNat 64
      (Finset.univ.filter fun k : Fin 24 => s.inp.a.getLsbD k = true).card)) := by
  rw [Delivers, ← popcount24_canon]
  cases t <;> rfl

theorem delivers_clz (t : Ty) (s : State) :
    Delivers (t.pick .clzS .clzU) s (yOnly (BitVec.ofNat 64 (clz32 (opA s) - lzBias))) := by
  rw [Delivers, ← finish_giveCount, ← clzRule_eq t]
  cases t <;> rfl

theorem delivers_ctz (t : Ty) (s : State) :
    Delivers (t.pick .ctzS .ctzU) s (yOnly (BitVec.ofNat 64 (if opA s = 0#32 then 24 else ctz32 (opA s)))) := by
  cases t <;> rfl

/-- Settles O45: the population count bit by bit, the zero counts by where their scan stops; the trailing count of a
zero word is 24 by its own case. -/
theorem bitCountResults : Obligations.BitCountResults := by
  refine ⟨by decide, by decide, by decide, by decide, by decide, by decide, fun t s => ?_⟩
  have ha : (opA s).toNat < 2 ^ 24 := canon_lt s.inp.a
  refine ⟨delivers_popcnt t s, ?_, ?_⟩
  · obtain ⟨hle, hlt, hge⟩ := clz32_sub_lzBias_spec ha
    exact ⟨_, hle, delivers_clz t s, hlt, hge⟩
  · have hctz := delivers_ctz t s
    by_cases h0 : opA s = 0#32
    · rw [if_pos h0] at hctz
      rw [h0]
      exact ⟨24, le_rfl, hctz, dvd_zero _, fun _ => rfl, nofun⟩
    · rw [if_neg h0] at hctz
      obtain ⟨hlt, hdvd, hbit⟩ := ctz32_spec_of_ne_zero h0 ha
      exact ⟨_, hlt.le, hctz, hdvd, fun h => absurd h hlt.ne, fun _ => hbit⟩

end Sys2Proof.Machine
end

section
/-! PROOFS. Command words with a foreign operand (spec/30_encoding.md R51, R62): the fields of a word assembled from
them, and the command it decodes to. -/

namespace Sys2Proof

section Fields

variable {grp fn fmt : Nat} (t : Ty)

theorem tyCode_le_one : tyCode t ≤ 1 := by cases t <;> decide

theorem fmtCode_lt_sixteen (f : Fmt) : fmtCode f < 16 := by cases f <;> decide

@[simp] theorem fmtOfCode_fmtCode (f : Fmt) : fmtOfCode (fmtCode f) = some f := by cases f <;> rfl

theorem toNat_cmdWord (hg : grp < 16) (hn : fn < 16) (hm : fmt < 16) :
    (cmdWord grp fn t fmt).toNat = grp * 4096 + fn * 256 + tyCode t * 128 + fmt := by
  have ht := tyCode_le_one t
  rw [cmdWord, BitVec.toNat_ofNat]
  omega

theorem toNat_field (w : CmdWord) (lo len : Nat) : (w.extractLsb' lo len).toNat = w.toNat / 2 ^ lo % 2 ^ len := by
  rw [BitVec.extractLsb'_toNat, Nat.shiftRight_eq_div_pow]

theorem grpField_cmdWord (hg : grp < 16) (hn : fn < 16) (hm : fmt < 16) : grpField (cmdWord grp fn t fmt) = grp := by
  have ht := tyCode_le_one t
  rw [grpField, toNat_field, toNat_cmdWord t hg hn hm]
  omega

theorem fnField_cmdWord (hg : grp < 16) (hn : fn < 16) (hm : fmt < 16) : fnField (cmdWord grp fn t fmt) = fn := by
  have ht := tyCode_le_one t
  rw [fnField, toNat_field, toNat_cmdWord t hg hn hm]
  omega

theorem rsvField_cmdWord (hg : grp < 16) (hn : fn < 16) (hm : fmt < 16) : rsvField (cmdWord grp fn t fmt) = 0 := by
  have ht := tyCode_le_one t
  rw [rsvField, toNat_field, toNat_cmdWord t hg hn hm]
  omega

theorem fmtField_cmdWord (hg : grp < 16) (hn : fn < 16) (hm : fmt < 16) : fmtField (cmdWord grp fn t fmt) = fmt := by
  have ht := tyCode_le_one t
  rw [fmtField, toNat_field, toNat_cmdWord t hg hn hm]
  omega

theorem tyField_cmdWord (hg : grp < 16) (hn : fn < 16) (hm : fmt < 16) : tyField (cmdWord grp fn t fmt) = t := by
  have hbit : (cmdWord grp fn t fmt).getLsbD 7 = decide (tyCode t = 1) := by
    have ht := tyCode_le_one t
    rw [← BitVec.testBit_toNat, Nat.testBit_eq_decide_div_mod_eq, toNat_cmdWord t hg hn hm, decide_eq_decide]
    omega
  rw [tyField, hbit]
  cases t <;> rfl

/-- The decoding of R62 on an assembled word: its row of R53 takes the format, so the row makes the command. -/
theorem decode_cmdWord_foreign {legal : Fmt → Bool} {make : Ty → Fmt → Instr} {f : Fmt} (hg : grp < 16) (hn : fn < 16)
    (hrow : lookup grp fn = some (.foreign legal make)) (hf : legal f = true) :
    decode (cmdWord grp fn t (fmtCode f)) = some (make t f) := by
  have hm := fmtCode_lt_sixteen f
  apply Machine.decode_ok
  simp only [decodeNamed, rsvField_cmdWord t hg hn hm, grpField_cmdWord t hg hn hm, fnField_cmdWord t hg hn hm,
    fmtField_cmdWord t hg hn hm, tyField_cmdWord t hg hn hm, hrow, fmtOfCode_fmtCode, hf, if_true, ne_eq,
    not_true_eq_false, if_false]

/-- The same word as a base word plus its type and format bits. -/
theorem decode_base_add_foreign {legal : Fmt → Bool} {make : Ty → Fmt → Instr} {f : Fmt} (hg : grp < 16) (hn : fn < 16)
    (hrow : lookup grp fn = some (.foreign legal make)) (hf : legal f = true) :
    decode (BitVec.ofNat 16 (grp * 4096 + fn * 256) + BitVec.ofNat 16 (tyCode t * 128 + fmtCode f)) =
      some (make t f) := by
  rw [← BitVec.ofNat_add, ← Nat.add_assoc, ← cmdWord]
  exact decode_cmdWord_foreign t hg hn hrow hf

end Fields

end Sys2Proof
end

section
/-! PROOFS. Conversions from an integer format (spec/43_conversion.md R174, R176, R177). -/

namespace Sys2Proof.Machine

/-- A rule that rejects the formats R58 does not list, on a format it lists. -/
theorem unlessReserved_eq {legal : Bool} (h : legal = true) (r : Result) :
    (if !legal then .fatal .illegal else r) = r := by
  rw [h, Bool.not_true, if_neg Bool.false_ne_true]

theorem exec_cviExact (t : Ty) {f : Fmt} (hf : f.isInt = true) (s : State) :
    exec (t.pick (.cviExactS f) (.cviExactU f)) s = finish s
      (if InRange t (fint f s.inp.x) then giveValue (enc t (fint f s.inp.x)) else .fatal .range) := by
  rw [← unlessReserved_eq hf (ite ..)]
  cases t <;> rfl

theorem delivers_cviTrunc (t : Ty) {f : Fmt} (hf : f.isInt = true) (s : State) :
    Delivers (t.pick (.cviTruncS f) (.cviTruncU f)) s (yOnly ((BitVec.ofInt 24 (fint f s.inp.x)).setWidth 64)) := by
  rw [Delivers, ← wrap_setWidth64 t, ← finish_giveValue, ← unlessReserved_eq hf (giveValue _)]
  cases t <;> rfl

theorem minOf_le_maxOf (t : Ty) : minOf t ≤ maxOf t := by cases t <;> decide

theorem delivers_cviClamp (t : Ty) {f : Fmt} (hf : f.isInt = true) (s : State) :
    Delivers (t.pick (.cviClampS f) (.cviClampU f)) s
      (yOnly ((enc t (max (minOf t) (min (maxOf t) (fint f s.inp.x)))).setWidth 64)) := by
  rw [Delivers, ← clampTo_eq (minOf_le_maxOf t), ← finish_giveValue, ← unlessReserved_eq hf (giveValue _)]
  cases t <;> rfl

/-- The low bits of the value are those of `X` up to the format's width, whether the format is signed or not. -/
theorem ofInt_fint {f : Fmt} {n : Nat} (hn : n ≤ fmtWidth f) (x : Wide) :
    BitVec.ofInt n (fint f x) = x.setWidth n := by
  rw [fint]
  split_ifs
  · rw [← BitVec.signExtend, BitVec.signExtend_eq_setWidth_of_le _ hn, BitVec.setWidth_setWidth_of_le _ hn]
  · rw [BitVec.ofInt_natCast, BitVec.ofNat_toNat, BitVec.setWidth_setWidth_of_le _ hn]

/-- Settles O46: the words by their rows, `EXACT` on either answer of its range test, `TRUNC` and `CLAMP` by their
lemmas; from 24 bits on the truncated value is the low part of `X` (`ofInt_fint`). -/
theorem inboundIntegerConversions : Obligations.InboundIntegerConversions := by
  intro t f hf
  refine ⟨decode_base_add_foreign (grp := 4) (fn := 0) t (by decide) (by decide) rfl hf,
    decode_base_add_foreign (grp := 4) (fn := 2) t (by decide) (by decide) rfl hf,
    decode_base_add_foreign (grp := 4) (fn := 3) t (by decide) (by decide) rfl hf, fun s => ?_⟩
  have hexact := exec_cviExact t hf s
  have htrunc := delivers_cviTrunc t hf s
  refine ⟨fun hin => ?_, fun hout => ?_, htrunc, fun hwide => ?_, delivers_cviClamp t hf s⟩
  · rw [if_pos hin] at hexact
    exact delivers_of_done hexact
  · rw [if_neg hout] at hexact
    exact traps_of_fatal hexact
  · rw [ofInt_fint hwide] at htrunc
    exact htrunc

end Sys2Proof.Machine
end

section
/-! PROOFS. The fallible conversion (spec/43_conversion.md R175): a source is delivered when its exact value is an
integer in range. -/

namespace Sys2Proof.Machine

theorem reading_of_isFloat {f : Fmt} (h : f.isFloat = true) (x : Wide) : reading f x = fdec f x :=
  reading_float (by revert h; cases f <;> decide) x

theorem exec_cviExactly (t : Ty) (f : Fmt) (s : State) :
    exec (t.pick (.cviExactlyS f) (.cviExactlyU f)) s = finish s (cviExactlyRule t f s.inp.x) := by
  cases t <;> rfl

/-- The rational `num / 2^scale` is an integer exactly when the power divides, and then it is the quotient. -/
theorem intCast_eq_div_two_pow_iff (v num : Int) (scale : Nat) :
    (v : ℚ) = num / 2 ^ scale ↔ num % 2 ^ scale = 0 ∧ num / 2 ^ scale = v := by
  have hpow : (2 : Int) ^ scale ≠ 0 := by positivity
  calc (v : ℚ) = num / 2 ^ scale
    _ ↔ v * 2 ^ scale = num := by rw [eq_div_iff (by positivity)]; exact_mod_cast Iff.rfl
    _ ↔ num % 2 ^ scale = 0 ∧ num / 2 ^ scale = v := by
      rw [← Int.dvd_iff_emod_eq_zero]
      constructor
      · rintro rfl
        exact ⟨dvd_mul_left _ _, Int.mul_ediv_cancel v hpow⟩
      · rintro ⟨hdvd, rfl⟩
        exact Int.ediv_mul_cancel hdvd

theorem cviExactlyRule_of_integer {t : Ty} {f : Fmt} {x : Wide} {num v : Int} {scale : Nat}
    (hx : reading f x = .finite num scale) (hv : (v : ℚ) = num / 2 ^ scale) (hin : InRange t v) :
    cviExactlyRule t f x = giveValue (enc t v) := by
  obtain ⟨hmod, rfl⟩ := (intCast_eq_div_two_pow_iff v num scale).mp hv
  simp only [cviExactlyRule, hx]
  exact if_pos ⟨hmod, hin⟩

theorem cviExactlyRule_of_no_integer {t : Ty} {f : Fmt} {x : Wide} {num : Int} {scale : Nat}
    (hx : reading f x = .finite num scale) (hnone : ¬∃ v : Int, (v : ℚ) = num / 2 ^ scale ∧ InRange t v) :
    cviExactlyRule t f x = giveNone := by
  simp only [cviExactlyRule, hx]
  exact if_neg fun ⟨hmod, hin⟩ => hnone ⟨_, (intCast_eq_div_two_pow_iff _ num scale).mpr ⟨hmod, rfl⟩, hin⟩

theorem cviExactlyRule_of_not_finite {t : Ty} {f : Fmt} {x : Wide}
    (hx : reading f x = .posInf ∨ reading f x = .negInf ∨ reading f x = .nan) :
    cviExactlyRule t f x = giveNone := by
  rcases hx with hx | hx | hx <;> simp only [cviExactlyRule, hx]

theorem delivers_cviExactly {t : Ty} {f : Fmt} {s : State} {o : Outputs}
    (h : cviExactlyRule t f s.inp.x = .done o) : Delivers (t.pick (.cviExactlyS f) (.cviExactlyU f)) s o :=
  delivers_of_done ((exec_cviExactly t f s).trans (congrArg (finish s) h))

/-- An integer source is its value over `2^0`. -/
theorem intCast_eq_div_two_pow_zero_iff (v i : Int) : (v : ℚ) = i / 2 ^ 0 ↔ v = i := by
  rw [pow_zero, div_one, Int.cast_inj]

/-- Settles O47: integer and floating sources are both readings, so the same two lemmas of the rule serve them. -/
theorem fallibleInboundConversion : Obligations.FallibleInboundConversion := by
  intro t f
  refine ⟨decode_base_add_foreign (grp := 4) (fn := 1) t (by decide) (by decide) rfl rfl, fun s => ?_⟩
  refine ⟨fun hf hin => ?_, fun hf hout => ?_, fun hf num scale hx => ⟨fun v hv hin => ?_, fun hnone => ?_⟩,
    fun hf hx => ?_⟩
  · exact delivers_cviExactly (cviExactlyRule_of_integer (reading_int hf _)
      ((intCast_eq_div_two_pow_zero_iff _ _).mpr rfl) hin)
  · refine delivers_cviExactly (cviExactlyRule_of_no_integer (reading_int hf _) ?_)
    rintro ⟨v, hv, hin⟩
    exact hout ((intCast_eq_div_two_pow_zero_iff _ _).mp hv ▸ hin)
  · exact delivers_cviExactly (cviExactlyRule_of_integer ((reading_of_isFloat hf _).trans hx) hv hin)
  · exact delivers_cviExactly (cviExactlyRule_of_no_integer ((reading_of_isFloat hf _).trans hx) hnone)
  · rw [← reading_of_isFloat hf] at hx
    exact delivers_cviExactly (cviExactlyRule_of_not_finite hx)

end Sys2Proof.Machine
end

section
/-! PROOFS. Rounding to nearest (spec/43_conversion.md R179), in both settings. -/

namespace Sys2Proof.Machine

/-- The half-up rounding of a magnitude as a quotient of naturals. -/
theorem floor_abs_div_two_pow_add_half (num : Int) (scale : Nat) :
    ⌊|(num : ℚ) / 2 ^ scale| + 1 / 2⌋ = (((2 * num.natAbs + 2 ^ scale) / (2 * 2 ^ scale) : Nat) : Int) := by
  have hq : |(num : ℚ) / 2 ^ scale| + 1 / 2 =
      ((2 * num.natAbs + 2 ^ scale : Nat) : ℚ) / ((2 * 2 ^ scale : Nat) : ℚ) := by
    have habs : |(num : ℚ)| = (num.natAbs : ℚ) := by rw [Nat.cast_natAbs, Int.cast_abs]
    rw [abs_div, habs, abs_of_pos (by positivity : (0 : ℚ) < 2 ^ scale)]
    push_cast
    field_simp
  rw [hq, Rat.floor_natCast_div_natCast]
  rfl

theorem rnd_tiesAway (num : Int) (scale : Nat) :
    rnd .tiesAway num scale = num.sign * ⌊|(num : ℚ) / 2 ^ scale| + 1 / 2⌋ := by
  rw [floor_abs_div_two_pow_add_half, rnd]

/-- Multiplied out by `2^scale`, the rounded integer is at most half a unit off, and even when it is half a unit off:
the three branches are the remainder below, above and at the half. -/
theorem rnd_tiesEven_near (num : Int) (scale : Nat) :
    2 * |rnd .tiesEven num scale * 2 ^ scale - num| ≤ 2 ^ scale ∧
    (2 * |rnd .tiesEven num scale * 2 ^ scale - num| = 2 ^ scale → 2 ∣ rnd .tiesEven num scale) := by
  have hpow : (0 : Int) < 2 ^ scale := by positivity
  have hdiv : num / 2 ^ scale * 2 ^ scale + num % 2 ^ scale = num := Int.ediv_mul_add_emod num _
  have hlo := Int.emod_nonneg num hpow.ne'
  have hhi := Int.emod_lt_of_pos num hpow
  have hdown : |num / 2 ^ scale * 2 ^ scale - num| = num % 2 ^ scale := by
    rw [abs_of_nonpos (by omega)]; omega
  have hup : |(num / 2 ^ scale + 1) * 2 ^ scale - num| = 2 ^ scale - num % 2 ^ scale := by
    rw [add_one_mul, abs_of_nonneg (by omega)]; omega
  simp only [rnd]
  split_ifs with hbelow habove heven
  · rw [hdown]; omega
  · rw [hup]; omega
  · rw [hdown]; omega
  · rw [hup]; omega

/-- The distance from a rational `num / 2^scale` in units of `1 / 2^scale`. -/
theorem abs_intCast_sub_div_two_pow (v num : Int) (scale : Nat) :
    |(v : ℚ) - num / 2 ^ scale| = (|v * 2 ^ scale - num| : Int) / 2 ^ scale := by
  have hpow : (0 : ℚ) < 2 ^ scale := by positivity
  rw [← mul_div_cancel_right₀ (v : ℚ) hpow.ne', ← sub_div, abs_div, abs_of_pos hpow]
  push_cast
  rfl

/-- Settles O50: `ties_away` is the floor formula, `ties_even` by its distance multiplied out. -/
theorem roundingToNearest : Obligations.RoundingToNearest := by
  intro num scale
  obtain ⟨hnear, htie⟩ := rnd_tiesEven_near num scale
  have hpow : (0 : ℚ) < 2 ^ scale := by positivity
  refine ⟨rnd_tiesAway num scale, ?_, fun h => htie ?_⟩
  · rw [abs_intCast_sub_div_two_pow, div_le_div_iff₀ hpow two_pos, mul_comm, one_mul]
    exact_mod_cast hnear
  · rw [abs_intCast_sub_div_two_pow, div_eq_div_iff hpow.ne' two_ne_zero, mul_comm, one_mul] at h
    exact_mod_cast h

end Sys2Proof.Machine
end

section
/-! PROOFS. The rounding conversion (spec/43_conversion.md R178). -/

namespace Sys2Proof.Machine

theorem exec_cviRound (t : Ty) (f : Fmt) (s : State) :
    exec (t.pick (.cviRoundS f) (.cviRoundU f)) s = finish s (cviRoundRule s.params.f2iRound t f s.inp.x) := by
  cases t <;> rfl

theorem cviRoundRule_finite {f : Fmt} (hf : f.isFloat = true) (p : F2iRound) (t : Ty) {x : Wide} {num : Int}
    {scale : Nat} (hx : fdec f x = .finite num scale) :
    cviRoundRule p t f x =
      if InRange t (rnd p num scale) then giveValue (enc t (rnd p num scale)) else .fatal .range := by
  rw [cviRoundRule, unlessReserved_eq hf, hx]

theorem cviRoundRule_not_finite {f : Fmt} (hf : f.isFloat = true) (p : F2iRound) (t : Ty) {x : Wide}
    (hx : fdec f x = .posInf ∨ fdec f x = .negInf ∨ fdec f x = .nan) : cviRoundRule p t f x = .fatal .range := by
  rw [cviRoundRule, unlessReserved_eq hf]
  rcases hx with hx | hx | hx <;> rw [hx]

/-- Settles O51: a finite operand on either answer of the range test on its rounded integer, the others by
`cviRoundRule_not_finite`. -/
theorem roundingConversion : Obligations.RoundingConversion := by
  intro t f hf
  refine ⟨decode_base_add_foreign (grp := 4) (fn := 4) t (by decide) (by decide) rfl hf, fun s => ?_⟩
  have hexec := exec_cviRound t f s
  refine ⟨fun num scale hx hin => ?_, fun num scale hx hout => ?_, fun hx => ?_⟩
  · rw [cviRoundRule_finite hf _ t hx, if_pos hin] at hexec
    exact delivers_of_done hexec
  · rw [cviRoundRule_finite hf _ t hx, if_neg hout] at hexec
    exact traps_of_fatal hexec
  · rw [cviRoundRule_not_finite hf _ t hx] at hexec
    exact traps_of_fatal hexec

end Sys2Proof.Machine
end

section
/-! PROOFS. Conversions to a native integer format (spec/43_conversion.md R181 to R184). -/

namespace Sys2Proof.Machine

theorem exec_cvoExact (t : Ty) {f : Fmt} (hf : f.isNativeInt = true) (s : State) :
    exec (t.pick (.cvoExactS f) (.cvoExactU f)) s = finish s
      (if Fits f (lv t (opA s)) then give (fbits f (lv t (opA s))) else .fatal .range) := by
  rw [← unlessReserved_eq hf (ite ..)]
  cases t <;> rfl

theorem exec_cvoExactly (t : Ty) {f : Fmt} (hf : f.isNativeInt = true) (s : State) :
    exec (t.pick (.cvoExactlyS f) (.cvoExactlyU f)) s = finish s
      (if Fits f (lv t (opA s)) then give (fbits f (lv t (opA s))) else giveNone) := by
  rw [← unlessReserved_eq hf (ite ..)]
  cases t <;> rfl

theorem delivers_cvoTrunc (t : Ty) {f : Fmt} (hf : f.isNativeInt = true) (s : State) :
    Delivers (t.pick (.cvoTruncS f) (.cvoTruncU f)) s (yOnly (fbits f (lv t (opA s)))) := by
  rw [Delivers, ← finish_give, ← unlessReserved_eq hf (give _)]
  cases t <;> rfl

theorem fmin_le_fmax (f : Fmt) : fmin f ≤ fmax f := by cases f <;> decide

theorem delivers_cvoClamp (t : Ty) {f : Fmt} (hf : f.isNativeInt = true) (s : State) :
    Delivers (t.pick (.cvoClampS f) (.cvoClampU f)) s
      (yOnly (fbits f (max (fmin f) (min (fmax f) (lv t (opA s)))))) := by
  rw [Delivers, ← clampTo_eq (fmin_le_fmax f), ← finish_give, ← unlessReserved_eq hf (give _)]
  cases t <;> rfl

/-- Settles O52: `EXACT` and `EXACTLY` on either answer of the one test of the format's range, `TRUNC` and `CLAMP` by
their lemmas. -/
theorem outboundIntegerConversions : Obligations.OutboundIntegerConversions := by
  intro t f hf
  refine ⟨decode_base_add_foreign (grp := 5) (fn := 0) t (by decide) (by decide) rfl hf,
    decode_base_add_foreign (grp := 5) (fn := 1) t (by decide) (by decide) rfl hf,
    decode_base_add_foreign (grp := 5) (fn := 2) t (by decide) (by decide) rfl hf,
    decode_base_add_foreign (grp := 5) (fn := 3) t (by decide) (by decide) rfl hf, fun s => ?_⟩
  have hexact := exec_cvoExact t hf s
  have hexactly := exec_cvoExactly t hf s
  refine ⟨fun hfits => ?_, fun hnot => ?_, delivers_cvoTrunc t hf s, delivers_cvoClamp t hf s⟩
  · rw [if_pos hfits] at hexact hexactly
    exact ⟨delivers_of_done hexact, delivers_of_done hexactly⟩
  · rw [if_neg hnot] at hexact hexactly
    exact ⟨traps_of_fatal hexact, delivers_of_done hexactly⟩

end Sys2Proof.Machine
end

section
/-! PROOFS. The comparisons of group `CMP` (spec/44_comparison.md R200 to R208): one answer of `relate` settles all six
commands, and on a finite operand that answer is the order of the two numbers. -/

namespace Sys2Proof.Machine

/-- `r` says how `l` lies to `q` in a linear order; `unordered` says it of no two members. -/
def Rel.Orders {α : Type} [LinearOrder α] (r : Rel) (l q : α) : Prop :=
  (l < q ↔ r = .lt) ∧ (l = q ↔ r = .eq) ∧ (q < l ↔ r = .gt)

theorem orders_relate_finite (l num : Int) (scale : Nat) :
    (relate l (.finite num scale)).Orders (l : ℚ) (num / 2 ^ scale) :=
  relate_finite l num scale

/-- Against an integer (R201) the order is that of the integers themselves. -/
theorem orders_relate_int (l i : Int) : (relate l (.finite i 0)).Orders l i := by
  have h := orders_relate_finite l i 0
  rwa [Rel.Orders, pow_zero, div_one, Int.cast_lt, Int.cast_inj, Int.cast_lt] at h

/-- R203 to R208: the bool of each command is its relation, by the three ways two members of an order can lie. -/
theorem rel_bools_of_orders {α : Type} [LinearOrder α] {r : Rel} {l q : α} (h : r.Orders l q) :
    relEq r = decide (l = q) ∧ relNe r = decide (l ≠ q) ∧ relLt r = decide (l < q) ∧
    relLe r = decide (l ≤ q) ∧ relGt r = decide (l > q) ∧ relGe r = decide (l ≥ q) := by
  obtain ⟨hlt, heq, hgt⟩ := h
  rcases lt_trichotomy l q with h | h | h
  · rw [hlt.mp h]
    simp [relEq, relNe, relLt, relLe, relGt, relGe, h, h.ne, h.le, h.not_gt, h.not_ge]
  · rw [heq.mp h]
    simp [relEq, relNe, relLt, relLe, relGt, relGe, h]
  · rw [hgt.mp h]
    simp [relEq, relNe, relLt, relLe, relGt, relGe, h, h.ne', h.le, h.not_gt, h.not_ge]

/-- No comparison enters a fatal: how `A` lies to the reading of `X` gives the answer of all six commands. -/
theorem delivers_comparisons {t : Ty} {f : Fmt} {s : State} {r : Rel}
    (h : relate (lv t (opA s)) (reading f s.inp.x) = r) :
    Delivers (t.pick (.cmpeqS f) (.cmpeqU f)) s (yBool (relEq r)) ∧
    Delivers (t.pick (.cmpneS f) (.cmpneU f)) s (yBool (relNe r)) ∧
    Delivers (t.pick (.cmpltS f) (.cmpltU f)) s (yBool (relLt r)) ∧
    Delivers (t.pick (.cmpleS f) (.cmpleU f)) s (yBool (relLe r)) ∧
    Delivers (t.pick (.cmpgtS f) (.cmpgtU f)) s (yBool (relGt r)) ∧
    Delivers (t.pick (.cmpgeS f) (.cmpgeU f)) s (yBool (relGe r)) := by
  subst h
  cases t <;> exact ⟨rfl, rfl, rfl, rfl, rfl, rfl⟩

/-- Where `A` and the reading of `X` have their places in an order, the six commands deliver its six relations. -/
theorem delivers_comparisons_of_orders {α : Type} [LinearOrder α] {l q : α} {t : Ty} {f : Fmt} {s : State}
    (h : (relate (lv t (opA s)) (reading f s.inp.x)).Orders l q) :
    Delivers (t.pick (.cmpeqS f) (.cmpeqU f)) s (yBool (l = q)) ∧
    Delivers (t.pick (.cmpneS f) (.cmpneU f)) s (yBool (l ≠ q)) ∧
    Delivers (t.pick (.cmpltS f) (.cmpltU f)) s (yBool (l < q)) ∧
    Delivers (t.pick (.cmpleS f) (.cmpleU f)) s (yBool (l ≤ q)) ∧
    Delivers (t.pick (.cmpgtS f) (.cmpgtU f)) s (yBool (l > q)) ∧
    Delivers (t.pick (.cmpgeS f) (.cmpgeU f)) s (yBool (l ≥ q)) := by
  obtain ⟨heq, hne, hlt, hle, hgt, hge⟩ := rel_bools_of_orders h
  rw [← heq, ← hne, ← hlt, ← hle, ← hgt, ← hge]
  exact delivers_comparisons rfl

/-- Settles O55: the reading of an integer format is its integer over `2^0`, so the order is that of the integers. -/
theorem integerComparisons : Obligations.IntegerComparisons := by
  intro t f s hf
  apply delivers_comparisons_of_orders
  rw [reading_int hf]
  exact orders_relate_int _ _

/-- Settles O56: a finite operand by the order of the rationals; an infinity and NaN by the one answer `relate` has for
each, on which the six bools evaluate. -/
theorem floatComparisons : Obligations.FloatComparisons := by
  intro t f s hf
  rw [← reading_of_isFloat hf]
  refine ⟨fun num scale hx => ?_, fun hx => ?_, fun hx => ?_, fun hx => ?_⟩
  · apply delivers_comparisons_of_orders
    rw [hx]
    exact orders_relate_finite _ num scale
  · exact delivers_comparisons (r := .lt) (congrArg (relate _) hx)
  · exact delivers_comparisons (r := .gt) (congrArg (relate _) hx)
  · exact delivers_comparisons (r := .unordered) (congrArg (relate _) hx)

end Sys2Proof.Machine
end

section
/-! PROOFS. The shift-count fatal of group `BIT` (spec/42_bits_shifts.md R145, spec/60_exceptions.md R223). -/

namespace Sys2Proof.Machine

theorem exec_shl (t : Ty) (s : State) :
    exec (t.pick .shlS .shlU) s = finish s (withShiftCount (opX s) (shiftLeft24 (opA s))) := by
  cases t <;> rfl

theorem exec_shr (t : Ty) (s : State) :
    exec (t.pick .shrS .shrU) s =
      finish s (withShiftCount (opX s) (shiftRight24 s.params.shrSFill t (opA s))) := by
  cases t <;> rfl

/-- Whatever the shift itself computes, a command guarded by the count of `X` enters `Fatal(SHIFT)` outside `[0, 24)`. -/
theorem traps_of_shiftCount_outside {i : Instr} {s : State} {f : Nat → HostWord}
    (hexec : exec i s = finish s (withShiftCount (opX s) f))
    (hcount : shiftCount (opX s) < 0 ∨ 24 ≤ shiftCount (opX s)) : Traps i s .shift := by
  rw [withShiftCount_outside f hcount] at hexec
  exact traps_of_fatal hexec

/-- Settles O43: all four shifts pass through the one guard on the count. -/
theorem shiftCountOutOfRangeTraps : Obligations.ShiftCountOutOfRangeTraps := by
  intro s hcount
  have hshl (t : Ty) : Traps (t.pick .shlS .shlU) s .shift :=
    traps_of_shiftCount_outside (exec_shl t s) hcount
  have hshr (t : Ty) : Traps (t.pick .shrS .shrU) s .shift :=
    traps_of_shiftCount_outside (exec_shr t s) hcount
  exact ⟨hshl .s24, hshl .u24, hshr .s24, hshr .u24⟩

end Sys2Proof.Machine
end

section
/-! PROOFS. Every command as one rule of the parameters and the ports: the meaning of a command is that rule, finished,
so a fact about all commands is a fact about `ruleOf`, proved family by family. -/

namespace Sys2Proof.Machine

/-- What a command's rule answers on a setting of the parameters and a transaction's ports. -/
def ruleOf (p : Params) (n : Inputs) : Instr → Result
  | .zeroS | .zeroU => give 0#64
  | .canonS | .canonU | .rawS | .rawU | .bitcastS | .bitcastU => giveValue (canon n.a)
  | .valueS => valueRule .s24 (canon n.a)
  | .valueU => valueRule .u24 (canon n.a)
  | .magS => magRule .s24 (canon n.a)
  | .magU => magRule .u24 (canon n.a)
  | .signumS => signumRule .s24 (canon n.a)
  | .signumU => signumRule .u24 (canon n.a)
  | .wordsS => wordsRule .s24 (canon n.a)
  | .wordsU => wordsRule .u24 (canon n.a)
  | .addroS => addroRule .s24 (canon n.a) (canon n.b)
  | .addroU => addroRule .u24 (canon n.a) (canon n.b)
  | .subroS => subroRule .s24 (canon n.a) (canon n.b)
  | .subroU => subroRule .u24 (canon n.a) (canon n.b)
  | .mulroS => mulroRule p.mulOvfPartial .s24 (canon n.a) (canon n.b)
  | .mulroU => mulroRule p.mulOvfPartial .u24 (canon n.a) (canon n.b)
  | .divroS => divroRule .s24 (canon n.a) (canon n.b)
  | .divroU => divroRule .u24 (canon n.a) (canon n.b)
  | .remroS => remroRule .s24 (canon n.a) (canon n.b)
  | .remroU => remroRule .u24 (canon n.a) (canon n.b)
  | .addS => trapUnlessInRange .s24 (lv .s24 (canon n.a) + lv .s24 (canon n.b))
  | .addU => trapUnlessInRange .u24 (lv .u24 (canon n.a) + lv .u24 (canon n.b))
  | .subS => trapUnlessInRange .s24 (lv .s24 (canon n.a) - lv .s24 (canon n.b))
  | .subU => trapUnlessInRange .u24 (lv .u24 (canon n.a) - lv .u24 (canon n.b))
  | .mulS => trapUnlessInRange .s24 (lv .s24 (canon n.a) * lv .s24 (canon n.b))
  | .mulU => trapUnlessInRange .u24 (lv .u24 (canon n.a) * lv .u24 (canon n.b))
  | .divS => divRule .s24 (canon n.a) (canon n.b)
  | .divU => divRule .u24 (canon n.a) (canon n.b)
  | .remS => remRule .s24 (canon n.a) (canon n.b)
  | .remU => remRule .u24 (canon n.a) (canon n.b)
  | .divremS => divremRule .s24 (canon n.a) (canon n.b)
  | .divremU => divremRule .u24 (canon n.a) (canon n.b)
  | .divfwS => divfwRule .s24 (canon n.a) (canon n.b) (canon n.c)
  | .divfwU => divfwRule .u24 (canon n.a) (canon n.b) (canon n.c)
  | .ismultS => ismultRule .s24 (canon n.a) (canon n.b)
  | .ismultU => ismultRule .u24 (canon n.a) (canon n.b)
  | .andS | .andU => giveValue (canon n.a &&& canon n.b)
  | .orS | .orU => giveValue (canon n.a ||| canon n.b)
  | .xorS | .xorU => giveValue (canon n.a ^^^ canon n.b)
  | .notS | .notU => notRule (canon n.a)
  | .shlS | .shlU => withShiftCount n.x (shiftLeft24 (canon n.a))
  | .shrS => withShiftCount n.x (shiftRight24 p.shrSFill .s24 (canon n.a))
  | .shrU => withShiftCount n.x (shiftRight24 p.shrSFill .u24 (canon n.a))
  | .bswapS | .bswapU => giveValue (swapBytes (canon n.a))
  | .popcntS | .popcntU => giveCount (popcount24 (canon n.a))
  | .clzS => clzRule .s24 (canon n.a)
  | .clzU => clzRule .u24 (canon n.a)
  | .ctzS | .ctzU => ctzRule (canon n.a)
  | .cviExactS f => cviExactRule .s24 f n.x
  | .cviExactU f => cviExactRule .u24 f n.x
  | .cviExactlyS f => cviExactlyRule .s24 f n.x
  | .cviExactlyU f => cviExactlyRule .u24 f n.x
  | .cviTruncS f => cviTruncRule .s24 f n.x
  | .cviTruncU f => cviTruncRule .u24 f n.x
  | .cviClampS f => cviClampRule .s24 f n.x
  | .cviClampU f => cviClampRule .u24 f n.x
  | .cviRoundS f => cviRoundRule p.f2iRound .s24 f n.x
  | .cviRoundU f => cviRoundRule p.f2iRound .u24 f n.x
  | .cvoExactS f => cvoExactRule .s24 f (canon n.a)
  | .cvoExactU f => cvoExactRule .u24 f (canon n.a)
  | .cvoExactlyS f => cvoExactlyRule .s24 f (canon n.a)
  | .cvoExactlyU f => cvoExactlyRule .u24 f (canon n.a)
  | .cvoTruncS f => cvoTruncRule .s24 f (canon n.a)
  | .cvoTruncU f => cvoTruncRule .u24 f (canon n.a)
  | .cvoClampS f => cvoClampRule .s24 f (canon n.a)
  | .cvoClampU f => cvoClampRule .u24 f (canon n.a)
  | .cvoFloatS f => cvoFloatRule .s24 f (canon n.a)
  | .cvoFloatU f => cvoFloatRule .u24 f (canon n.a)
  | .cmpeqS f => compareRule relEq .s24 f (canon n.a) n.x
  | .cmpeqU f => compareRule relEq .u24 f (canon n.a) n.x
  | .cmpneS f => compareRule relNe .s24 f (canon n.a) n.x
  | .cmpneU f => compareRule relNe .u24 f (canon n.a) n.x
  | .cmpltS f => compareRule relLt .s24 f (canon n.a) n.x
  | .cmpltU f => compareRule relLt .u24 f (canon n.a) n.x
  | .cmpleS f => compareRule relLe .s24 f (canon n.a) n.x
  | .cmpleU f => compareRule relLe .u24 f (canon n.a) n.x
  | .cmpgtS f => compareRule relGt .s24 f (canon n.a) n.x
  | .cmpgtU f => compareRule relGt .u24 f (canon n.a) n.x
  | .cmpgeS f => compareRule relGe .s24 f (canon n.a) n.x
  | .cmpgeU f => compareRule relGe .u24 f (canon n.a) n.x

/-- The rule of a command is the command: `ruleOf` says of every row what `exec` does with it. -/
theorem exec_eq_finish_ruleOf (i : Instr) (s : State) : exec i s = finish s (ruleOf s.params s.inp i) := by
  cases i <;> rfl

theorem traps_iff_ruleOf {i : Instr} {s : State} {c : Cause} (hs : s.record.fatal = false) :
    Traps i s c ↔ ruleOf s.params s.inp i = .fatal c := by
  rw [Traps, exec_eq_finish_ruleOf]
  exact ⟨fun h => finish_eq_raiseFatal hs h, fun h => by rw [h]; rfl⟩

theorem delivers_iff_ruleOf {i : Instr} {s : State} {o : Outputs} (hs : s.record.fatal = false) :
    Delivers i s o ↔ ruleOf s.params s.inp i = .done o := by
  rw [Delivers, exec_eq_finish_ruleOf]
  exact ⟨fun h => finish_eq_deliver hs h, fun h => by rw [h]; rfl⟩

/-- Settles O12: the two kinds of a rule's result are the two outcomes. -/
theorem commandsDeliverOrEnterAFatal : Obligations.CommandsDeliverOrEnterAFatal := by
  intro i s
  have hexec := exec_eq_finish_ruleOf i s
  cases hr : ruleOf s.params s.inp i with
  | done o => exact .inl ⟨o, delivers_of_done (hr ▸ hexec)⟩
  | fatal c => exact .inr ⟨c, traps_of_fatal (hr ▸ hexec)⟩

end Sys2Proof.Machine
end

section
/-! PROOFS. Transactions as results (spec/10_state.md R29, spec/60_exceptions.md R228): a running block finishes the
result its command word asks for, so a step is a reset, a quiet transaction, or that one result. -/

namespace Sys2Proof.Machine

/-! ### What a step does, check by check -/

/-- What a requested transaction asks of a running block: `ILLEGAL` for a reserved word, else its command's rule. -/
def requested (p : Params) (n : Inputs) : Result :=
  match decode n.cmd with
  | none => .fatal .illegal
  | some i => ruleOf p n i

theorem requested_reserved {p : Params} {n : Inputs} (h : decode n.cmd = none) : requested p n = .fatal .illegal := by
  rw [requested, h]

theorem requested_command {p : Params} {n : Inputs} {i : Instr} (h : decode n.cmd = some i) :
    requested p n = ruleOf p n i := by
  rw [requested, h]

theorem decodeNamed_of_decode_eq_some {w : CmdWord} {i : Instr} (h : decode w = some i) : decodeNamed w = .ok i := by
  cases hd : decodeNamed w with
  | error e => exact absurd (h.symm.trans (decode_error hd)) nofun
  | ok j => rw [Option.some.inj (h.symm.trans (decode_ok hd))]

theorem decodeNamed_of_decode_eq_none {w : CmdWord} (h : decode w = none) : ∃ e, decodeNamed w = .error e := by
  cases hd : decodeNamed w with
  | error e => exact ⟨e, rfl⟩
  | ok j => exact absurd (h.symm.trans (decode_ok hd)) nofun

theorem step_idle {s : State} (h : s.inp.rst = false) (hq : s.inp.req = false) :
    step s = .next (presentNext (quiet s)) :=
  step_of_noCommand (noCommand_idle h hq)

/-- Past checks 1 to 3 of R228 the word is decoded, and a reserved word and a command alike have one result. -/
theorem step_running {s : State} (h : s.inp.rst = false) (hq : s.inp.req = true) (hf : s.record.fatal = false) :
    step s = thenPresent (finish s (requested s.params s.inp)) := by
  cases hd : decode s.inp.cmd with
  | none =>
    obtain ⟨e, he⟩ := decodeNamed_of_decode_eq_none hd
    simp only [step, noCommand_none h hq hf, fetch, he, requested_reserved hd, finish_fatal, thenPresent]
  | some i =>
    simp only [step, noCommand_none h hq hf, fetch, decodeNamed_of_decode_eq_some hd, requested_command hd,
      exec_eq_finish_ruleOf]

/-- What a step leaves: the four ways a transaction can end, `finish_cases` applied to `step_running`. -/
theorem step_outcomes {s t : State} (hstep : step s = .next t) :
    t = presentNext (resetBlock s) ∨ t = presentNext (quiet s) ∨
    (∃ o, s.record.fatal = false ∧ requested s.params s.inp = .done o ∧ t = presentNext (deliver o s)) ∨
    (∃ c, s.inp.rst = false ∧ s.inp.req = true ∧ requested s.params s.inp = .fatal c ∧
      t = presentNext (raiseFatal c s)) := by
  rcases step_cases hstep with ⟨_, ht⟩ | ⟨_, _, ht⟩ | ⟨hr, hq, _, hd, ht⟩ | ⟨hr, hq, hf, i, u, hd, hu, ht⟩
  · exact .inl ht
  · exact .inr (.inl ht)
  · exact .inr (.inr (.inr ⟨_, hr, hq, requested_reserved hd, ht⟩))
  · rw [exec_eq_finish_ruleOf, ← requested_command hd] at hu
    subst ht
    rcases finish_cases hu with ⟨o, ho, rfl⟩ | ⟨c, hc, rfl⟩
    · exact .inr (.inr (.inl ⟨o, hf, ho, rfl⟩))
    · exact .inr (.inr (.inr ⟨c, hr, hq, hc, rfl⟩))

/-- Finishing a result leaves the host's transactions alone, so presenting the next one takes the head of `pending`. -/
theorem exists_finish_then_present (s : State) (r : Result) :
    ∃ t, finish s r = .next t ∧ thenPresent (finish s r) =
      .next { t with inp := s.pending.headD Inputs.idle, pending := s.pending.tail } := by
  cases r with
  | done o => exact ⟨deliver o s, rfl, congrArg Host.Outcome.next (presentNext_eq (deliver o s))⟩
  | fatal c => exact ⟨raiseFatal c s, rfl, congrArg Host.Outcome.next (presentNext_eq (raiseFatal c s))⟩

/-- Settles O5: past the checks the step is the command's result (`step_running`), then presented. -/
theorem stepRunsTheDecodedCommand : Obligations.StepRunsTheDecodedCommand := by
  rintro s w i ⟨hr, hq, hf, rfl⟩ hd
  rw [exec_eq_finish_ruleOf, step_running hr hq hf, requested_command hd]
  exact exists_finish_then_present s _

/-- Settles O6: `withFetchWord` presents the word on a running block, and a table word that decodes fits `CMD`. -/
theorem tableWordRunsItsCommand : Obligations.TableWordRunsItsCommand := by
  intro s w i hf hd
  have hword : decode (BitVec.ofNat 16 (w % 2 ^ 16)) = some i := by
    rwa [decodeTableWord, if_pos (Nat.mod_lt w (by decide))] at hd
  exact stepRunsTheDecodedCommand (s.withFetchWord 16 w) _ i ⟨rfl, rfl, hf, rfl⟩ hword

/-- Settles O11: the reserved word's result is `ILLEGAL`, entered with the ports as presented. -/
theorem reservedWordIsIllegal : Obligations.ReservedWordIsIllegal := by
  rintro s w ⟨hr, hq, hf, rfl⟩ hd
  rw [step_running hr hq hf, requested_reserved hd]
  refine ⟨presentNext (raiseFatal .illegal s), rfl, ?_, ?_, ?_⟩
  · rw [presentNext_out, raiseFatal_out, Outputs.zero]
  · rw [presentNext_params, raiseFatal_params]
  · rw [presentNext_record, raiseFatal_record]

/-- Settles O7: one case for each check of R228, in its order; in each the other clauses' premises do not hold. -/
theorem stepFollowsTheCheckOrder : Obligations.StepFollowsTheCheckOrder := by
  intro s
  cases hr : s.inp.rst with
  | true =>
    exact ⟨resetBlock s, (step_reset hr).trans (congrArg _ (presentNext_eq _)), fun _ => rfl, (nomatch ·), (nomatch ·),
      (nomatch ·), fun _ => (nomatch ·)⟩
  | false =>
    cases hq : s.inp.req with
    | false =>
      exact ⟨quiet s, (step_idle hr hq).trans (congrArg _ (presentNext_eq _)), (nomatch ·), fun _ _ => rfl,
        fun _ => (nomatch ·), fun _ => (nomatch ·), fun _ _ => (nomatch ·)⟩
    | true =>
      cases hf : s.record.fatal with
      | true =>
        exact ⟨quiet s, (step_halted hf hr).trans (congrArg _ (presentNext_eq _)), (nomatch ·), fun _ => (nomatch ·),
          fun _ _ _ => rfl, fun _ _ => (nomatch ·), fun _ _ _ => (nomatch ·)⟩
      | false =>
        obtain ⟨t, ht, hstep⟩ := exists_finish_then_present s (requested s.params s.inp)
        refine ⟨t, (step_running hr hq hf).trans hstep, (nomatch ·), fun _ => (nomatch ·), fun _ _ => (nomatch ·),
          fun _ _ _ hd => ?_, fun i _ _ _ hd => ?_⟩
        · rw [requested_reserved hd, finish_fatal] at ht
          exact (Host.Outcome.next.inj ht).symm
        · rw [exec_eq_finish_ruleOf, ← requested_command hd, ht]

/-- Two transactions on equal ports and parameters finish the same result, so what they leave is the same up to the
record they started from. -/
theorem finish_agree {s s' t t' : State} {r : Result} (hinp : s.inp = s'.inp)
    (hfatal : s.record.fatal = s'.record.fatal) (h : thenPresent (finish s r) = .next t)
    (h' : thenPresent (finish s' r) = .next t') :
    t.out = t'.out ∧ t.record.fatal = t'.record.fatal ∧ (s.record = s'.record → t.record = t'.record) := by
  cases r with
  | done o =>
    obtain rfl := Host.Outcome.next.inj h
    obtain rfl := Host.Outcome.next.inj h'
    simpa using hfatal
  | fatal c =>
    obtain rfl := Host.Outcome.next.inj h
    obtain rfl := Host.Outcome.next.inj h'
    simp [hinp]

/-- Settles O17: equal ports and `FATAL` pass the same checks, and past them equal ports and parameters ask for the same
result. -/
theorem transactionsAreIndependent : Obligations.TransactionsAreIndependent := by
  intro s s' t t' hinp hparams hfatal h h'
  cases hr : s.inp.rst with
  | true =>
    obtain rfl := Host.Outcome.next.inj ((step_reset hr).symm.trans h)
    obtain rfl := Host.Outcome.next.inj ((step_reset (hinp ▸ hr)).symm.trans h')
    simp
  | false =>
    cases hq : s.inp.req with
    | false =>
      obtain rfl := Host.Outcome.next.inj ((step_idle hr hq).symm.trans h)
      obtain rfl := Host.Outcome.next.inj ((step_idle (hinp ▸ hr) (hinp ▸ hq)).symm.trans h')
      simpa using hfatal
    | true =>
      cases hf : s.record.fatal with
      | true =>
        obtain rfl := Host.Outcome.next.inj ((step_halted hf hr).symm.trans h)
        obtain rfl := Host.Outcome.next.inj ((step_halted (s := s') (hfatal.symm.trans hf) (hinp ▸ hr)).symm.trans h')
        simpa using hfatal
      | false =>
        rw [step_running hr hq hf] at h
        rw [step_running (hinp ▸ hr) (hinp ▸ hq) (hfatal ▸ hf), ← hparams, ← hinp] at h'
        exact finish_agree hinp hfatal h h'

end Sys2Proof.Machine
end

section
/-! PROOFS. A halt lasts until reset (spec/60_exceptions.md R227, spec/10_state.md R28). -/

namespace Sys2Proof.Machine

/-- With no reset to come, a halted block is again one after a step, with
none on the ports. -/
theorem halted_step {s : State} (hhalt : Halted s) (hp : ∀ p ∈ s.pending, p.rst = false) :
    Halted (presentNext (quiet s)) ∧ (presentNext (quiet s)).inp.rst = false ∧
    ∀ p ∈ (presentNext (quiet s)).pending, p.rst = false := by
  refine ⟨by simpa [Halted] using hhalt, ?_, fun p hmem => hp p ?_⟩
  · rw [presentNext_inp, quiet_pending]
    cases hpend : s.pending with
    | nil => rfl
    | cons p ps => exact hp p (hpend ▸ List.mem_cons_self)
  · rw [presentNext_pending, quiet_pending] at hmem
    exact List.mem_of_mem_tail hmem

theorem run_succ_of_step {n : Nat} {s t : State} (h : step s = .next t) :
    Sys2Proof.core.run (n + 1) s = Sys2Proof.core.run n t := by
  have hcore : Sys2Proof.core.step s = .next t := h
  simp only [Host.Core.run, hcore]

/-- Settles O10, by induction on the number of steps: the first step keeps the record and zeroes the outputs, and
`halted_step` gives the rest of the run its hypotheses again. -/
theorem haltLastsUntilReset : Obligations.HaltLastsUntilReset := by
  intro n
  induction n with
  | zero => exact fun s _ _ _ => ⟨s, rfl, rfl, rfl, nofun⟩
  | succ n ih =>
    intro s hhalt hr hp
    obtain ⟨hhalt', hr', hp'⟩ := halted_step hhalt hp
    obtain ⟨t, hrun, hrecord, hparams, hout⟩ := ih _ hhalt' hr' hp'
    refine ⟨t, (run_succ_of_step (step_halted hhalt hr)).trans hrun, by simpa using hrecord, by simpa using hparams,
      fun _ => ?_⟩
    cases n with
    | zero =>
      obtain rfl := Host.Outcome.next.inj hrun
      rw [presentNext_out, quiet_out, Outputs.zero]
    | succ m => exact hout m.succ_pos

end Sys2Proof.Machine
end

section
/-! PROOFS. The command words (spec/30_encoding.md R51 to R65): decoding and encoding undo each other, and the words no
row of the table takes are the reserved ones. -/

namespace Sys2Proof

/-! ### Encoding, then decoding -/

/-- The decoding of R62 on the word of a command without a foreign operand: its row of R53 makes the command. -/
theorem decode_encode_plain {grp fn : Nat} {make : Ty → Instr} {i : Instr} (t : Ty)
    (hword : encode i = cmdWord grp fn t 0) (hrow : lookup grp fn = some (.plain make)) (hmake : make t = i)
    (hg : grp < 16) (hn : fn < 16) : decode (encode i) = some i := by
  have hm : 0 < 16 := by decide
  apply Machine.decode_ok
  simp only [hword, decodeNamed, rsvField_cmdWord t hg hn hm, grpField_cmdWord t hg hn hm, fnField_cmdWord t hg hn hm,
    fmtField_cmdWord t hg hn hm, tyField_cmdWord t hg hn hm, hrow, if_true, ne_eq, not_true_eq_false, if_false, hmake]

/-- The same for a command with a foreign operand, where the row admits the format (`decode_cmdWord_foreign`). -/
theorem decode_encode_foreign {grp fn : Nat} {legal : Fmt → Bool} {make : Ty → Fmt → Instr} {i : Instr} {f : Fmt}
    (t : Ty) (hword : encode i = cmdWord grp fn t (fmtCode f)) (hrow : lookup grp fn = some (.foreign legal make))
    (hmake : make t f = i) (hf : legal f = true) (hg : grp < 16) (hn : fn < 16) : decode (encode i) = some i := by
  rw [hword, decode_cmdWord_foreign t hg hn hrow hf, hmake]

/-- Settles O1: a command without a format has one word, which its row decodes; one with a format has the word of each
format its row admits. -/
theorem decodeOfEncode : Obligations.DecodeOfEncode := by
  intro i hwf
  cases i with
  | zeroS | canonS | valueS | rawS | bitcastS | magS | signumS | wordsS | addroS | subroS | mulroS | divroS | remroS
  | addS | subS | mulS | divS | remS | divremS | divfwS | ismultS | andS | orS | xorS | notS | shlS | shrS | bswapS
  | popcntS | clzS | ctzS =>
    exact decode_encode_plain .s24 rfl rfl rfl (by decide) (by decide)
  | zeroU | canonU | valueU | rawU | bitcastU | magU | signumU | wordsU | addroU | subroU | mulroU | divroU | remroU
  | addU | subU | mulU | divU | remU | divremU | divfwU | ismultU | andU | orU | xorU | notU | shlU | shrU | bswapU
  | popcntU | clzU | ctzU =>
    exact decode_encode_plain .u24 rfl rfl rfl (by decide) (by decide)
  | cviExactS | cviExactlyS | cviTruncS | cviClampS | cviRoundS | cvoExactS | cvoExactlyS | cvoTruncS | cvoClampS
  | cvoFloatS | cmpeqS | cmpneS | cmpltS | cmpleS | cmpgtS | cmpgeS =>
    exact decode_encode_foreign .s24 rfl rfl rfl hwf (by decide) (by decide)
  | cviExactU | cviExactlyU | cviTruncU | cviClampU | cviRoundU | cvoExactU | cvoExactlyU | cvoTruncU | cvoClampU
  | cvoFloatU | cmpeqU | cmpneU | cmpltU | cmpleU | cmpgtU | cmpgeU =>
    exact decode_encode_foreign .u24 rfl rfl rfl hwf (by decide) (by decide)

/-! ### Decoding, then encoding -/

/-- The commands a row makes are well formed, and their words have the row's group and function. -/
def OpRow.Encodes (grp fn : Nat) : OpRow → Prop
  | .plain make => ∀ t, (make t).wellFormed = true ∧ encode (make t) = cmdWord grp fn t 0
  | .foreign legal make =>
    ∀ t f, legal f = true → (make t f).wellFormed = true ∧ encode (make t f) = cmdWord grp fn t (fmtCode f)

/-- The table of R53 row by row. -/
theorem lookup_encodes {grp fn : Nat} {row : OpRow} (h : lookup grp fn = some row) : row.Encodes grp fn := by
  unfold lookup at h
  cases row with
  | plain make =>
    split at h <;> cases h
    all_goals exact fun t => by cases t <;> exact ⟨rfl, rfl⟩
  | foreign legal make =>
    split at h <;> cases h
    all_goals exact fun t f hf => by cases t <;> exact ⟨hf, rfl⟩

theorem fmtCode_of_fmtOfCode {m : Nat} {f : Fmt} (h : fmtOfCode m = some f) : fmtCode f = m := by
  unfold fmtOfCode at h
  split at h <;> cases h <;> rfl

theorem tyCode_tyField (w : CmdWord) : tyCode (tyField w) = w.toNat / 128 % 2 := by
  have hbit : w.getLsbD 7 = decide (w.toNat / 2 ^ 7 % 2 = 1) := by
    rw [← BitVec.testBit_toNat, Nat.testBit_eq_decide_div_mod_eq]
  rw [tyField, hbit]
  by_cases h : w.toNat / 2 ^ 7 % 2 = 1
  · rw [decide_eq_true h, if_pos rfl, tyCode]; omega
  · rw [decide_eq_false h, if_neg Bool.false_ne_true, tyCode]; omega

/-- A word with `RSV` zero is assembled from its other four fields. -/
theorem cmdWord_fields {w : CmdWord} (h : rsvField w = 0) :
    cmdWord (grpField w) (fnField w) (tyField w) (fmtField w) = w := by
  have hlt := w.isLt
  rw [rsvField, toNat_field] at h
  apply BitVec.eq_of_toNat_eq
  rw [cmdWord, tyCode_tyField, grpField, fnField, fmtField, toNat_field, toNat_field, toNat_field, BitVec.toNat_ofNat]
  omega

/-- What a decoded word is made of: `RSV` zero, and a row of its group and function that makes the command. -/
theorem decode_eq_some_iff {w : CmdWord} {i : Instr} :
    decode w = some i ↔ rsvField w = 0 ∧ ∃ row, lookup (grpField w) (fnField w) = some row ∧
      ((∃ make, row = .plain make ∧ fmtField w = 0 ∧ make (tyField w) = i) ∨
        ∃ legal make f, row = .foreign legal make ∧ fmtOfCode (fmtField w) = some f ∧ legal f = true ∧
          make (tyField w) f = i) := by
  unfold decode decodeNamed
  by_cases hrsv : rsvField w = 0
  · rw [if_neg (not_not.mpr hrsv)]
    cases hrow : lookup (grpField w) (fnField w) with
    | none => simp
    | some row =>
      cases row with
      | plain make => by_cases hfmt : fmtField w = 0 <;> simp [hrsv, hfmt]
      | foreign legal make =>
        cases hf : fmtOfCode (fmtField w) with
        | none => simp
        | some f => cases hl : legal f <;> simp [hrsv, hl]
  · simp [hrsv]

/-- Settles O2: the row that made the command gives its word (`lookup_encodes`), which is the word whose fields they
are. -/
theorem encodeOfDecode : Obligations.EncodeOfDecode := by
  intro w i h
  obtain ⟨hrsv, row, hrow, ⟨make, rfl, hfmt, rfl⟩ | ⟨legal, make, f, rfl, hf, hlegal, rfl⟩⟩ := decode_eq_some_iff.mp h
  · obtain ⟨hwf, hword⟩ := lookup_encodes hrow (tyField w)
    rw [← hfmt, cmdWord_fields hrsv] at hword
    exact ⟨hwf, hword⟩
  · obtain ⟨hwf, hword⟩ := lookup_encodes hrow (tyField w) f hlegal
    rw [fmtCode_of_fmtOfCode hf, cmdWord_fields hrsv] at hword
    exact ⟨hwf, hword⟩

theorem wellFormed_of_decode {w : CmdWord} {i : Instr} (h : decode w = some i) : i.wellFormed = true :=
  (encodeOfDecode w i h).1

end Sys2Proof
end

section
/-! PROOFS. The reserved words (spec/30_encoding.md R60) by their fields: `RSV`, no row of R53, or a format the row does
not take. -/

namespace Sys2Proof

/-- A word of this row with `m` in its `FMT` field is a command. -/
def OpRow.Takes (m : Nat) : OpRow → Prop
  | .plain _ => m = 0
  | .foreign legal _ => (fmtOfCode m).any legal = true

theorem decode_eq_none_iff (w : CmdWord) :
    decode w = none ↔
      rsvField w ≠ 0 ∨ ∀ row, lookup (grpField w) (fnField w) = some row → ¬row.Takes (fmtField w) := by
  constructor
  · intro hnone
    by_contra! htaken
    obtain ⟨hrsv, row, hrow, htakes⟩ := htaken
    obtain ⟨i, hi⟩ : ∃ i, decode w = some i := by
      cases row with
      | plain make => exact ⟨_, decode_eq_some_iff.mpr ⟨hrsv, _, hrow, .inl ⟨make, rfl, htakes, rfl⟩⟩⟩
      | foreign legal make =>
        obtain ⟨f, hf, hlegal⟩ := (Option.any_eq_true ..).mp htakes
        exact ⟨_, decode_eq_some_iff.mpr ⟨hrsv, _, hrow, .inr ⟨legal, make, f, rfl, hf, hlegal, rfl⟩⟩⟩
    exact Option.some_ne_none i (hi.symm.trans hnone)
  · intro hreserved
    rw [Option.eq_none_iff_forall_ne_some]
    intro i h
    obtain ⟨hrsv, row, hrow, hmade⟩ := decode_eq_some_iff.mp h
    refine hreserved.resolve_left (not_not.mpr hrsv) row hrow ?_
    rcases hmade with ⟨make, rfl, hfmt, _⟩ | ⟨legal, make, f, rfl, hf, hlegal, _⟩
    · exact hfmt
    · exact (Option.any_eq_true ..).mpr ⟨f, hf, hlegal⟩

/-! ### The rows of the table -/

/-- R60's unused groups and functions. -/
def NoRow (grp fn : Nat) : Prop :=
  7 ≤ grp ∨ (grp = 0 ∧ 8 ≤ fn) ∨ (grp = 1 ∧ 5 ≤ fn) ∨ (grp = 2 ∧ 8 ≤ fn) ∨ (grp = 3 ∧ 10 ≤ fn) ∨
  (grp = 4 ∧ 5 ≤ fn) ∨ (grp = 5 ∧ 5 ≤ fn) ∨ (grp = 6 ∧ 6 ≤ fn)

/-- R58's formats, by what each group and function does not take (R56 for groups 0 to 3). -/
def IllegalFormat (grp fn m : Nat) : Prop :=
  (grp ≤ 3 ∧ m ≠ 0) ∨
  (grp = 4 ∧ (fn = 0 ∨ fn = 2 ∨ fn = 3) ∧ (m = 8 ∨ m = 9 ∨ 12 ≤ m)) ∨
  (grp = 4 ∧ fn = 1 ∧ 12 ≤ m) ∨
  (grp = 4 ∧ fn = 4 ∧ m ≠ 8 ∧ m ≠ 9) ∨
  (grp = 5 ∧ fn ≤ 3 ∧ 8 ≤ m) ∨
  (grp = 5 ∧ fn = 4 ∧ m ≠ 8 ∧ m ≠ 9) ∨
  (grp = 6 ∧ 12 ≤ m)

/-- The last arm of the table is reached by what its 47 rows leave, each excluded by its own numbers. -/
theorem lookup_eq_none_iff (grp fn : Nat) : lookup grp fn = none ↔ NoRow grp fn := by
  unfold lookup NoRow
  split
  case h_48 => simp only [true_iff]; grind
  all_goals simp

/-- The `FMT` codes of each row of R58. -/
theorem any_fmtOfCode_iff {m : Nat} (hm : m < 16) :
    ((fmtOfCode m).any anyFmt = true ↔ m < 12) ∧ ((fmtOfCode m).any Fmt.isInt = true ↔ m < 12 ∧ m ≠ 8 ∧ m ≠ 9) ∧
    ((fmtOfCode m).any Fmt.isFloat = true ↔ m = 8 ∨ m = 9) ∧ ((fmtOfCode m).any Fmt.isNativeInt = true ↔ m < 8) := by
  revert m
  decide

theorem not_takes_iff {grp fn m : Nat} {row : OpRow} (hrow : lookup grp fn = some row) (hm : m < 16) :
    ¬row.Takes m ↔ IllegalFormat grp fn m := by
  obtain ⟨hany, hint, hfloat, hnative⟩ := any_fmtOfCode_iff hm
  unfold IllegalFormat
  unfold lookup at hrow
  split at hrow <;> cases hrow <;> simp [OpRow.Takes, hany, hint, hfloat, hnative] <;> omega

/-- The rows of the table settle every word with `RSV` zero: none takes it, or one does and has a view on its format. -/
theorem decode_eq_none_iff_fields (w : CmdWord) :
    decode w = none ↔
      rsvField w ≠ 0 ∨ NoRow (grpField w) (fnField w) ∨ IllegalFormat (grpField w) (fnField w) (fmtField w) := by
  rw [decode_eq_none_iff, ← lookup_eq_none_iff]
  cases hrow : lookup (grpField w) (fnField w) with
  | none => exact iff_of_true (.inr nofun) (.inr (.inl rfl))
  | some row =>
    have hm : fmtField w < 16 := BitVec.isLt _
    simp only [Option.some.injEq, forall_eq', not_takes_iff hrow hm, reduceCtorEq, false_or]

theorem fields_eq (w : CmdWord) :
    grpField w = w.toNat / 4096 ∧ fnField w = w.toNat / 256 % 16 ∧ rsvField w = w.toNat / 16 % 8 ∧
    fmtField w = w.toNat % 16 := by
  have hlt := w.isLt
  rw [grpField, fnField, rsvField, fmtField, toNat_field, toNat_field, toNat_field, toNat_field]
  omega

/-- Settles O3: the fields of `decode_eq_none_iff_fields` are the quotients of the word's number. -/
theorem reservedWordsExactly : Obligations.ReservedWordsExactly := by
  intro w
  obtain ⟨hgrp, hfn, hrsv, hfmt⟩ := fields_eq w
  have h := decode_eq_none_iff_fields w
  rw [hgrp, hfn, hrsv, hfmt, NoRow, IllegalFormat] at h
  simpa only [or_assoc] using h

/-- Settles O4: the twelve words, decoded. -/
theorem exampleWordsDecode : Obligations.ExampleWordsDecode := by
  unfold Obligations.ExampleWordsDecode
  decide

/-- Settles O60: the table's words and codes, evaluated. -/
theorem formatCodesAreThoseOfTheTable : Obligations.FormatCodesAreThoseOfTheTable := by
  unfold Obligations.FormatCodesAreThoseOfTheTable
  decide

end Sys2Proof
end

section
/-! PROOFS. What the rules of the commands can answer (spec/10_state.md R25, R26, spec/60_exceptions.md R221): outputs
that are well formed, or the one fatal of the command. -/

namespace Sys2Proof.Machine

/-- The bits 31:24 of a stored word are zero. -/
theorem enc_and_topByte (t : Ty) (i : Int) : enc t i &&& 0xFF000000#32 = 0#32 := by
  rw [enc, ← canon_wrap, canon, BitVec.and_assoc, show mask &&& 0xFF000000#32 = 0#32 by decide, BitVec.and_zero]

/-- The result delivers well-formed outputs, or is a fatal with the given cause. -/
def Result.Answers (cause : Option Cause) : Result → Prop
  | .done o => o.wf
  | .fatal c => cause = some c

section Answers

variable {cause : Option Cause} {c : Cause} (t : Ty) {f : Fmt}

theorem answers_fatal : (Result.fatal c).Answers (some c) := rfl

theorem answers_give (y : Wide) : (give y).Answers cause := ⟨nofun, BitVec.zero_and⟩

theorem answers_giveValue (w : HostWord) : (giveValue w).Answers cause := answers_give _

theorem answers_giveCount (n : Nat) : (giveCount n).Answers cause := answers_give _

theorem answers_giveBool (p : Bool) : (giveBool p).Answers cause := answers_give _

theorem answers_giveFlagged (w : HostWord) (ovf : Bool) : (giveFlagged w ovf).Answers cause :=
  ⟨nofun, BitVec.zero_and⟩

theorem answers_givePair (q : HostWord) (i : Int) : (givePair q (enc t i)).Answers cause :=
  ⟨nofun, enc_and_topByte t i⟩

theorem answers_giveNone : giveNone.Answers cause := ⟨fun _ => rfl, rfl⟩

theorem answers_ite {p : Prop} [Decidable p] {r r' : Result} (h : r.Answers cause) (h' : r'.Answers cause) :
    (if p then r else r').Answers cause := by
  split
  · exact h
  · exact h'

/-- A rule that is `ILLEGAL` on the formats its command does not take, on one it takes. -/
theorem answers_unlessReserved {legal : Bool} {r : Result} (hlegal : legal = true) (h : r.Answers cause) :
    (if !legal then .fatal .illegal else r).Answers cause := by
  rwa [unlessReserved_eq hlegal]

theorem answers_trapUnlessInRange (v : Int) : (trapUnlessInRange t v).Answers (some .overflow) :=
  answers_ite (answers_giveValue _) answers_fatal

theorem answers_divRule (a b : HostWord) : (divRule t a b).Answers (some .overflow) :=
  answers_ite answers_fatal (answers_giveValue _)

theorem answers_remRule (a b : HostWord) : (remRule t a b).Answers (some .overflow) :=
  answers_ite answers_fatal (answers_giveValue _)

theorem answers_divremRule (a b : HostWord) : (divremRule t a b).Answers (some .overflow) :=
  answers_ite answers_fatal (answers_givePair t _ _)

theorem answers_divfwRule (high low d : HostWord) : (divfwRule t high low d).Answers (some .fwdiv) :=
  answers_ite answers_fatal (answers_ite answers_fatal (answers_givePair t _ _))

theorem answers_ismultRule (a b : HostWord) : (ismultRule t a b).Answers cause :=
  answers_ite (answers_giveBool _) (answers_giveBool _)

theorem answers_withShiftCount (x : Wide) (shifted : Nat → HostWord) :
    (withShiftCount x shifted).Answers (some .shift) :=
  answers_ite answers_fatal (answers_giveValue _)

theorem answers_cviExactRule (hf : f.isInt = true) (x : Wide) : (cviExactRule t f x).Answers (some .range) :=
  answers_unlessReserved hf (answers_ite (answers_giveValue _) answers_fatal)

theorem answers_cviExactlyRule (f : Fmt) (x : Wide) : (cviExactlyRule t f x).Answers cause := by
  rw [cviExactlyRule]
  split
  · exact answers_ite (answers_giveValue _) answers_giveNone
  · exact answers_giveNone
  · exact answers_giveNone
  · exact answers_giveNone

theorem answers_cviTruncRule (hf : f.isInt = true) (x : Wide) : (cviTruncRule t f x).Answers cause :=
  answers_unlessReserved hf (answers_giveValue _)

theorem answers_cviClampRule (hf : f.isInt = true) (x : Wide) : (cviClampRule t f x).Answers cause :=
  answers_unlessReserved hf (answers_giveValue _)

theorem answers_cviRoundRule (hf : f.isFloat = true) (p : F2iRound) (x : Wide) :
    (cviRoundRule p t f x).Answers (some .range) := by
  refine answers_unlessReserved hf ?_
  split
  · exact answers_ite (answers_giveValue _) answers_fatal
  · exact answers_fatal
  · exact answers_fatal
  · exact answers_fatal

theorem answers_cvoExactRule (hf : f.isNativeInt = true) (a : HostWord) :
    (cvoExactRule t f a).Answers (some .range) :=
  answers_unlessReserved hf (answers_ite (answers_give _) answers_fatal)

theorem answers_cvoExactlyRule (hf : f.isNativeInt = true) (a : HostWord) : (cvoExactlyRule t f a).Answers cause :=
  answers_unlessReserved hf (answers_ite (answers_give _) answers_giveNone)

theorem answers_cvoTruncRule (hf : f.isNativeInt = true) (a : HostWord) : (cvoTruncRule t f a).Answers cause :=
  answers_unlessReserved hf (answers_give _)

theorem answers_cvoClampRule (hf : f.isNativeInt = true) (a : HostWord) : (cvoClampRule t f a).Answers cause :=
  answers_unlessReserved hf (answers_give _)

theorem answers_cvoFloatRule (hf : f.isFloat = true) (a : HostWord) : (cvoFloatRule t f a).Answers cause :=
  answers_unlessReserved hf (answers_give _)

end Answers

/-- Family by family: a well-formed command answers well-formed outputs or the one fatal of the table of R221. -/
theorem answers_ruleOf {i : Instr} (hwf : i.wellFormed = true) (p : Params) (n : Inputs) :
    (ruleOf p n i).Answers (causeOf i) := by
  cases i with
  | zeroS | zeroU | valueS | valueU | wordsS | wordsU => exact answers_give _
  | canonS | canonU | rawS | rawU | bitcastS | bitcastU | magS | magU | signumS | signumU | andS | andU | orS | orU
  | xorS | xorU | notS | notU | bswapS | bswapU => exact answers_giveValue _
  | popcntS | popcntU | clzS | clzU | ctzS | ctzU => exact answers_giveCount _
  | cmpeqS | cmpeqU | cmpneS | cmpneU | cmpltS | cmpltU | cmpleS | cmpleU | cmpgtS | cmpgtU | cmpgeS | cmpgeU =>
    exact answers_giveBool _
  | addroS | addroU | subroS | subroU | mulroS | mulroU | divroS | divroU | remroS | remroU =>
    exact answers_giveFlagged _ _
  | addS | addU | subS | subU | mulS | mulU => exact answers_trapUnlessInRange _ _
  | divS | divU => exact answers_divRule _ _ _
  | remS | remU => exact answers_remRule _ _ _
  | divremS | divremU => exact answers_divremRule _ _ _
  | divfwS | divfwU => exact answers_divfwRule _ _ _ _
  | ismultS | ismultU => exact answers_ismultRule _ _ _
  | shlS | shlU | shrS | shrU => exact answers_withShiftCount _ _
  | cviExactS | cviExactU => exact answers_cviExactRule _ hwf _
  | cviExactlyS | cviExactlyU => exact answers_cviExactlyRule _ _ _
  | cviTruncS | cviTruncU => exact answers_cviTruncRule _ hwf _
  | cviClampS | cviClampU => exact answers_cviClampRule _ hwf _
  | cviRoundS | cviRoundU => exact answers_cviRoundRule _ hwf _ _
  | cvoExactS | cvoExactU => exact answers_cvoExactRule _ hwf _
  | cvoExactlyS | cvoExactlyU => exact answers_cvoExactlyRule _ hwf _
  | cvoTruncS | cvoTruncU => exact answers_cvoTruncRule _ hwf _
  | cvoClampS | cvoClampU => exact answers_cvoClampRule _ hwf _
  | cvoFloatS | cvoFloatU => exact answers_cvoFloatRule _ hwf _

/-- Settles O13: the fatal a command enters is its rule's, whose cause `answers_ruleOf` gives; the codes are
`causeCode`, cause by cause. -/
theorem causeOfEachCommand : Obligations.CauseOfEachCommand := by
  refine ⟨fun i s c hwf hs htraps => ?_, fun s c hc => ?_, fun s hc => ?_⟩
  · have h := answers_ruleOf hwf s.params s.inp
    rwa [(traps_iff_ruleOf hs).mp htraps] at h
  · rw [fcausePort, hc]
    cases c <;> rfl
  · rw [fcausePort, hc]

end Sys2Proof.Machine
end

section
/-! PROOFS. The two invariants of the machine (spec/10_state.md R25 to R29): the record and the outputs stay well
formed, and a halted block's record replays to its own fatal. -/

namespace Sys2Proof.Machine

/-! ### Well-formed record and outputs -/

theorem wf_zero : Outputs.zero.wf := ⟨fun _ => rfl, rfl⟩

theorem wf_clear : FaultRecord.clear.wf := rfl

theorem wf_raiseFatal_record (c : Cause) (s : State) : (raiseFatal c s).record.wf := Option.some_ne_none c

/-- Outputs a running block delivers are well formed: the word that asked for them decodes, so its command is. -/
theorem wf_of_requested_done {p : Params} {n : Inputs} {o : Outputs} (h : requested p n = .done o) : o.wf := by
  cases hd : decode n.cmd with
  | none => rw [requested_reserved hd] at h; cases h
  | some i =>
    have hans := answers_ruleOf (wellFormed_of_decode hd) p n
    rwa [← requested_command hd, h] at hans

theorem wf_presentNext_iff (s : State) : (presentNext s).wf ↔ s.record.wf ∧ s.out.wf := by
  rw [State.wf, presentNext_record, presentNext_out]

/-- Settles O14: each of the four ends of a transaction leaves a well-formed record and well-formed outputs. -/
theorem stepKeepsTheInvariant : Obligations.StepKeepsTheInvariant := by
  rintro s t ⟨hrecord, _⟩ hstep
  rcases step_outcomes hstep with rfl | rfl | ⟨o, _, ho, rfl⟩ | ⟨c, _, _, _, rfl⟩ <;> rw [wf_presentNext_iff]
  · exact ⟨wf_clear, wf_zero⟩
  · exact ⟨hrecord, wf_zero⟩
  · exact ⟨hrecord, wf_of_requested_done ho⟩
  · exact ⟨wf_raiseFatal_record c s, wf_zero⟩

/-! ### A record that explains its halt -/

/-- The two ways a record explains a halt are one: its transaction, presented again, asks for the recorded fatal. -/
theorem explained_iff (s : State) :
    s.explained ↔ (s.record.fatal = true →
      ∃ c, s.record.fcause = some c ∧ requested s.params (replay s).inp = .fatal c) := by
  have hcmd : (replay s).inp.cmd = s.record.fcmd := rfl
  have hreplay {i : Instr} {c : Cause} : Traps i (replay s) c ↔ ruleOf s.params (replay s).inp i = .fatal c :=
    traps_iff_ruleOf rfl
  rw [State.explained]
  refine imp_congr_right fun _ => ?_
  cases hd : decode s.record.fcmd with
  | none =>
    rw [requested_reserved (hcmd ▸ hd)]
    simp [eq_comm]
  | some j =>
    rw [requested_command (hcmd ▸ hd)]
    simp [hreplay]

/-- An explanation is a matter of the record and the parameters. -/
theorem explained_congr {s t : State} (hrecord : t.record = s.record) (hparams : t.params = s.params)
    (h : s.explained) : t.explained := by
  rw [explained_iff] at h ⊢
  simpa only [replay, hrecord, hparams] using h

theorem explained_of_running {s : State} (h : s.record.fatal = false) : s.explained :=
  fun hf => absurd hf (ne_true_of_eq_false h)

/-- A fatal just entered is explained: its record replays the transaction that entered it. -/
theorem explained_raiseFatal {s : State} {c : Cause} (hr : s.inp.rst = false) (hq : s.inp.req = true)
    (h : requested s.params s.inp = .fatal c) : (raiseFatal c s).explained := by
  have hinp : (replay (raiseFatal c s)).inp = s.inp := by
    rw [replay, raiseFatal_record, ← hr, ← hq]
  rw [explained_iff, hinp]
  exact fun _ => ⟨c, rfl, h⟩

/-- Settles O15: a reset or a delivery leaves a running block, a quiet transaction the record it found, and a fatal
entered is `explained_raiseFatal`. -/
theorem stepKeepsTheRecordExplained : Obligations.StepKeepsTheRecordExplained := by
  intro s t hexplained hstep
  have hpresent {u : State} (h : u.explained) : (presentNext u).explained :=
    explained_congr (presentNext_record u) (presentNext_params u) h
  rcases step_outcomes hstep with rfl | rfl | ⟨o, hf, _, rfl⟩ | ⟨c, hr, hq, hc, rfl⟩
  · exact hpresent (explained_of_running rfl)
  · exact hpresent (explained_congr rfl rfl hexplained)
  · exact hpresent (explained_of_running hf)
  · exact hpresent (explained_raiseFatal hr hq hc)

/-- Settles O16: the reset state has the clear record and zero outputs, and it is not halted. -/
theorem resetHasTheInvariants : Obligations.ResetHasTheInvariants :=
  ⟨⟨wf_clear, wf_zero⟩, explained_of_running rfl⟩

end Sys2Proof.Machine
end

section
/-! PROOFS. The operands of a command (spec/10_state.md R25, spec/30_encoding.md R57, R59): a rule is a function of the
bits its command reads. -/

namespace Sys2Proof.Machine

theorem canon_congr {v w : HostWord} (h : v.setWidth 24 = w.setWidth 24) : canon v = canon w := by
  rw [canon_eq_setWidth, canon_eq_setWidth, h]

theorem fint_congr {f : Fmt} {x y : Wide} (h : x.setWidth (fmtWidth f) = y.setWidth (fmtWidth f)) :
    fint f x = fint f y := by
  rw [fint, fint, h]

theorem toNat_extractLsb' {n : Nat} (x : BitVec n) (lo len : Nat) :
    (x.extractLsb' lo len).toNat = x.toNat / 2 ^ lo % 2 ^ len := by
  rw [BitVec.extractLsb'_toNat, Nat.shiftRight_eq_div_pow]

/-- R171 decodes three fields of the operand: its sign bit, its exponent and its fraction. -/
theorem ieeeDecode_congr {ew fw : Nat} {x y : Wide} (h : x.setWidth (ew + fw + 1) = y.setWidth (ew + fw + 1)) :
    ieeeDecode ew fw x = ieeeDecode ew fw y := by
  have hfield {lo len : Nat} (hle : lo + len ≤ ew + fw + 1) : x.extractLsb' lo len = y.extractLsb' lo len := by
    rw [← BitVec.extractLsb'_setWidth_of_le hle, h, BitVec.extractLsb'_setWidth_of_le hle]
  have hexp := congrArg BitVec.toNat (hfield (lo := fw) (len := ew) (by omega))
  have hfrac := congrArg BitVec.toNat (hfield (lo := 0) (len := fw) (by omega))
  have hsign := congrArg (BitVec.getLsbD · 0) (hfield (lo := ew + fw) (len := 1) (by omega))
  rw [toNat_extractLsb', toNat_extractLsb'] at hexp hfrac
  rw [pow_zero, Nat.div_one, Nat.div_one] at hfrac
  have hbit : x.getLsbD (ew + fw) = y.getLsbD (ew + fw) := by simpa [BitVec.getLsbD_extractLsb'] using hsign
  simp only [ieeeDecode, hexp, hfrac, hbit]

theorem fdec_congr {f : Fmt} (hf : f.isFloat = true) {x y : Wide}
    (h : x.setWidth (fmtWidth f) = y.setWidth (fmtWidth f)) : fdec f x = fdec f y := by
  cases f with
  | f32 => exact ieeeDecode_congr h
  | f64 => exact ieeeDecode_congr h
  | i8 | i16 | i32 | i64 | u8 | u16 | u32 | u64 | s24 | u24 => cases hf

theorem isFloat_eq_not_isInt (f : Fmt) : f.isFloat = !f.isInt := by cases f <;> rfl

theorem reading_congr {f : Fmt} {x y : Wide} (h : x.setWidth (fmtWidth f) = y.setWidth (fmtWidth f)) :
    reading f x = reading f y := by
  cases hf : f.isInt with
  | true => rw [reading_int hf, reading_int hf, fint_congr h]
  | false =>
    have hfloat : f.isFloat = true := by rw [isFloat_eq_not_isInt, hf, Bool.not_false]
    rw [reading_of_isFloat hfloat, reading_of_isFloat hfloat, fdec_congr hfloat h]

theorem cviRoundRule_congr {f : Fmt} {x y : Wide} (h : x.setWidth (fmtWidth f) = y.setWidth (fmtWidth f))
    (p : F2iRound) (t : Ty) : cviRoundRule p t f x = cviRoundRule p t f y := by
  cases hf : f.isFloat with
  | true => rw [cviRoundRule, cviRoundRule, fdec_congr hf h]
  | false => rw [cviRoundRule, cviRoundRule, hf]; rfl

/-- Family by family: the ports a rule looks at are those of its command's row of R59. -/
theorem ruleOf_congr {i : Instr} {n m : Inputs} (h : SameOperands i n m) (p : Params) :
    ruleOf p n i = ruleOf p m i := by
  obtain ⟨ha, hb, hc, hx⟩ := h
  cases i with
  | zeroS | zeroU => rfl
  | canonS | canonU | valueS | valueU | rawS | rawU | bitcastS | bitcastU | magS | magU | signumS | signumU | wordsS
  | wordsU | notS | notU | bswapS | bswapU | popcntS | popcntU | clzS | clzU | ctzS | ctzU | cvoExactS | cvoExactU
  | cvoExactlyS | cvoExactlyU | cvoTruncS | cvoTruncU | cvoClampS | cvoClampU | cvoFloatS | cvoFloatU =>
    simp only [ruleOf, canon_congr (ha rfl)]
  | addroS | addroU | subroS | subroU | mulroS | mulroU | divroS | divroU | remroS | remroU | addS | addU | subS | subU
  | mulS | mulU | divS | divU | remS | remU | divremS | divremU | ismultS | ismultU | andS | andU | orS | orU | xorS
  | xorU =>
    simp only [ruleOf, canon_congr (ha rfl), canon_congr (hb rfl)]
  | divfwS | divfwU => simp only [ruleOf, canon_congr (ha rfl), canon_congr (hb rfl), canon_congr (hc rfl)]
  | shlS | shlU | shrS | shrU =>
    have hcount : shiftCount n.x = shiftCount m.x := congrArg BitVec.toInt hx
    simp only [ruleOf, withShiftCount, canon_congr (ha rfl), hcount]
  | cviExactS | cviExactU => simp only [ruleOf, cviExactRule, fint_congr hx]
  | cviExactlyS | cviExactlyU => simp only [ruleOf, cviExactlyRule, reading_congr hx]
  | cviTruncS | cviTruncU => simp only [ruleOf, cviTruncRule, fint_congr hx]
  | cviClampS | cviClampU => simp only [ruleOf, cviClampRule, fint_congr hx]
  | cviRoundS | cviRoundU => exact cviRoundRule_congr hx _ _
  | cmpeqS | cmpeqU | cmpneS | cmpneU | cmpltS | cmpltU | cmpleS | cmpleU | cmpgtS | cmpgtU | cmpgeS | cmpgeU =>
    simp only [ruleOf, compareRule, canon_congr (ha rfl), reading_congr hx]

/-- Settles O18: the rule is the same (`ruleOf_congr`), so on any state it finishes with the same outputs or the same
fatal. -/
theorem onlyTheOperandsMatter : Obligations.OnlyTheOperandsMatter := by
  intro i s s' hparams hoperands
  have hrule : ruleOf s'.params s'.inp i = ruleOf s.params s.inp i := by rw [hparams, ruleOf_congr hoperands]
  have hexec := exec_eq_finish_ruleOf i s'
  rw [hrule] at hexec
  refine ⟨fun o hdelivers hs => ?_, fun c htraps hs => ?_⟩
  · rw [(delivers_iff_ruleOf hs).mp hdelivers] at hexec
    exact delivers_of_done hexec
  · rw [(traps_iff_ruleOf hs).mp htraps] at hexec
    exact traps_of_fatal hexec

end Sys2Proof.Machine
end

section
/-! PROOFS. Logical values and foreign formats as inverse encodings (spec/00_scope.md R11, R14, spec/30_encoding.md
R57). -/

namespace Sys2Proof.Machine

/-- Settles O21: an in-range integer survives its encoding (`lv_enc`), a stored word survives its reading
(`enc_lv_canon`). -/
theorem encodingOfValuesIsExact : Obligations.EncodingOfValuesIsExact := by
  refine fun t => ⟨fun i hi => ⟨lv_enc hi, enc_and_topByte t i⟩, fun w => ?_⟩
  exact ⟨inRange_lv_canon t w, enc_lv_canon t w, canon_eq_setWidth w⟩

theorem fmtWidth_le_sixtyFour (f : Fmt) : fmtWidth f ≤ 64 := by cases f <;> decide

theorem fmtWidth_pos (f : Fmt) : 0 < fmtWidth f := by cases f <;> decide

/-- The image of an integer is its residue modulo the width, with zeros above. -/
theorem fbits_toNat (f : Fmt) (v : Int) : ((fbits f v).toNat : Int) = v % 2 ^ fmtWidth f := by
  have hnonneg : 0 ≤ v % 2 ^ fmtWidth f := Int.emod_nonneg v (by positivity)
  rw [fbits, BitVec.toNat_setWidth_of_le (fmtWidth_le_sixtyFour f), BitVec.toNat_ofInt, Nat.cast_pow, Nat.cast_ofNat,
    Int.toNat_of_nonneg hnonneg]

theorem fint_bounds (f : Fmt) (x : Wide) : fmin f ≤ fint f x ∧ fint f x ≤ fmax f := by
  rw [fmin, fmax, fint]
  split
  · exact ⟨BitVec.le_toInt _, Int.le_sub_one_of_lt BitVec.toInt_lt⟩
  · exact ⟨Int.natCast_nonneg _, Int.le_sub_one_of_lt (by exact_mod_cast BitVec.isLt _)⟩

/-- The reading agrees with the port modulo the width, since they have the same low bits (`ofInt_fint`). -/
theorem fint_emod (f : Fmt) (x : Wide) : fint f x % 2 ^ fmtWidth f = (x.toNat : Int) % 2 ^ fmtWidth f := by
  have hbits := congrArg (fun b : BitVec (fmtWidth f) => (b.toNat : Int)) (ofInt_fint (f := f) le_rfl x)
  have hnonneg : 0 ≤ fint f x % 2 ^ fmtWidth f := Int.emod_nonneg _ (by positivity)
  simp only [BitVec.toNat_ofInt, BitVec.toNat_setWidth, Nat.cast_pow, Nat.cast_ofNat, Int.natCast_mod] at hbits
  rwa [Int.toNat_of_nonneg hnonneg] at hbits

/-- The image of an integer the format holds reads as that integer. -/
theorem fint_fbits {f : Fmt} {v : Int} (h : Fits f v) : fint f (fbits f v) = v := by
  obtain ⟨hlo, hhi⟩ := h
  have hback : (fbits f v).setWidth (fmtWidth f) = BitVec.ofInt (fmtWidth f) v := by
    rw [fbits, BitVec.setWidth_setWidth_of_le _ (fmtWidth_le_sixtyFour f), BitVec.setWidth_eq]
  rw [fint, hback]
  rw [fmin] at hlo
  rw [fmax] at hhi
  split_ifs at hlo hhi ⊢
  · exact BitVec.toInt_ofInt_eq_self (fmtWidth_pos f) hlo (Int.lt_of_le_sub_one hhi)
  · have hnonneg : 0 ≤ v % 2 ^ fmtWidth f := Int.emod_nonneg v (by positivity)
    rw [BitVec.toNat_ofInt, Nat.cast_pow, Nat.cast_ofNat, Int.toNat_of_nonneg hnonneg]
    exact Int.emod_eq_of_lt hlo (Int.lt_of_le_sub_one hhi)

theorem fbits_lt (f : Fmt) (v : Int) : (fbits f v).toNat < 2 ^ fmtWidth f := by
  have h : ((fbits f v).toNat : Int) < 2 ^ fmtWidth f := fbits_toNat f v ▸ Int.emod_lt_of_pos v (by positivity)
  exact_mod_cast h

/-- The sibling format `S24` reads port `X` as the signed type reads port `A`. -/
theorem fint_s24_eq_lv (x : Wide) : fint .s24 x = lv .s24 (canon (x.setWidth 32)) := by
  rw [lv_s24_canon, BitVec.setWidth_setWidth_of_le _ (by decide)]
  rfl

/-- The sibling format `U24` reads port `X` as the unsigned type reads port `A`. -/
theorem fint_u24_eq_lv (x : Wide) : fint .u24 x = lv .u24 (canon (x.setWidth 32)) := by
  rw [lv_u24_canon, BitVec.setWidth_setWidth_of_le _ (by decide)]
  rfl

/-- R57's width of each integer format. -/
theorem fmtWidth_table : ∀ e ∈ [(Fmt.i8, 8), (.i16, 16), (.i32, 32), (.i64, 64), (.u8, 8), (.u16, 16), (.u32, 32),
    (.u64, 64), (.s24, 24), (.u24, 24)], fmtWidth e.1 = e.2 ∧ e.1.isInt = true := by decide

/-- Settles O23: the rows are the model's own widths and signs; the bounds, the residues and the round trip are the
lemmas above, for every width at once. -/
theorem integerFormatsReadByWidthAndSign : Obligations.IntegerFormatsReadByWidthAndSign := by
  refine ⟨fun x => ?_, by decide, by decide, by decide, by decide, by decide, by decide, by decide, by decide,
    by decide, by decide, by decide, by decide, by decide, by decide, by decide, by decide, by decide, by decide,
    by decide, by decide, fun e he => ?_, fun f _ => ⟨fun x => ?_, fun v hlo hhi => ?_⟩⟩
  · have hwide : x.setWidth 64 = x := BitVec.setWidth_eq x
    exact ⟨rfl, rfl, rfl, congrArg BitVec.toInt hwide, rfl, rfl, rfl,
      congrArg (fun y : Wide => (y.toNat : Int)) hwide, rfl, fint_s24_eq_lv x, rfl⟩
  · obtain ⟨hwidth, hint⟩ := fmtWidth_table e he
    exact ⟨hwidth, hint, fun v => hwidth ▸ ⟨rfl, fbits_toNat e.1 v⟩⟩
  · obtain ⟨hlo, hhi⟩ := fint_bounds f x
    exact ⟨hlo, hhi, fint_emod f x⟩
  · exact ⟨fint_fbits ⟨hlo, hhi⟩, fbits_lt f v⟩

end Sys2Proof.Machine
end

section
/-! PROOFS. A result fed back to a port: reinterpretation (spec/40_representation.md R87), the value of a complement
(spec/42_bits_shifts.md R144), repeated truncation (spec/43_conversion.md R176) and the mirrored comparison
(spec/44_comparison.md R209). -/

namespace Sys2Proof.Machine

/-- A command has one outcome. -/
theorem eq_of_delivers {i : Instr} {s u : State} {o : Outputs} (h : Delivers i s o) (hu : exec i s = .next u) :
    u = { s with out := o } :=
  (Host.Outcome.next.inj (h.symm.trans hu)).symm

theorem delivers_iff_eq {i : Instr} {s : State} {o : Outputs} (h : Delivers i s o) (o' : Outputs) :
    Delivers i s o' ↔ o' = o := by
  constructor
  · exact fun h' => congrArg State.out (eq_of_delivers h h')
  · rintro rfl
    exact h

/-- A stored word on `Y`, taken back to 32 bits. -/
theorem setWidth32_setWidth64 (b : BitVec 24) : (b.setWidth 64).setWidth 32 = b.setWidth 32 :=
  BitVec.setWidth_setWidth_of_le _ (by decide)

theorem setWidth24_setWidth64 (b : BitVec 24) : (b.setWidth 64).setWidth 24 = b := by
  rw [BitVec.setWidth_setWidth_of_le _ (by decide), BitVec.setWidth_eq]

/-- Settles O27: either reinterpretation delivers bits 23:0 of `A`, and those bits on `A` again are the same bits. -/
theorem bitcastRoundTrip : Obligations.BitcastRoundTrip := by
  intro t s u hu
  have hsibling : Delivers (t.pick .bitcastU .bitcastS) s (yOnly ((s.inp.a.setWidth 24).setWidth 64)) := by
    cases t with
    | s24 => exact delivers_bitcast .u24 s
    | u24 => exact delivers_bitcast .s24 s
  obtain rfl := eq_of_delivers hsibling hu
  rw [setWidth32_setWidth64, ← canon_eq_setWidth, opA, canon_setWidth64, ← canon_setWidth24]
  exact delivers_bitcast t _

/-- Settles O41: `Y` is the stored word of the complement, whose value `lv_s24_canon_not` and `lv_u24_canon_not`
give. -/
theorem notLogicalValue : Obligations.NotLogicalValue := by
  have hy (t : Ty) (s u : State) (hu : exec (t.pick .notS .notU) s = .next u) :
      u.out.y.setWidth 32 = canon (~~~s.inp.a) := by
    obtain rfl := eq_of_delivers (delivers_not t s) hu
    rw [setWidth32_setWidth64, canon_not]
  refine fun s u => ⟨fun hu => ?_, fun hu => ?_⟩
  · rw [hy .s24 s u hu]
    exact lv_s24_canon_not s.inp.a
  · rw [hy .u24 s u hu]
    exact lv_u24_canon_not s.inp.a

/-- In a type's own format the low 24 bits of a reading are the low 24 bits of `X`. -/
theorem delivers_cviTrunc_own (t : Ty) (s : State) :
    Delivers (t.pick (.cviTruncS .s24) (.cviTruncU .u24)) s (yOnly ((s.inp.x.setWidth 24).setWidth 64)) := by
  cases t with
  | s24 => exact ofInt_fint (f := .s24) (n := 24) le_rfl s.inp.x ▸ delivers_cviTrunc .s24 (f := .s24) rfl s
  | u24 => exact ofInt_fint (f := .u24) (n := 24) le_rfl s.inp.x ▸ delivers_cviTrunc .u24 (f := .u24) rfl s

/-- Settles O48: the first truncation leaves 24 bits on `Y`, and the second delivers the low 24 bits of that. -/
theorem truncationIsIdempotent : Obligations.TruncationIsIdempotent := by
  intro t f s u hf hu
  obtain rfl := eq_of_delivers (delivers_cviTrunc t hf s) hu
  have h := delivers_cviTrunc_own t { s with
    inp := { s.inp with x := (BitVec.ofInt 24 (fint f s.inp.x)).setWidth 64 }
    out := yOnly ((BitVec.ofInt 24 (fint f s.inp.x)).setWidth 64) }
  rwa [setWidth24_setWidth64] at h

/-- Two commands that deliver the bools of equivalent relations deliver the same patterns. -/
theorem delivers_iff_of_yBool {i j : Instr} {s m : State} {p q : Prop} [Decidable p] [Decidable q]
    (hi : Delivers i s (yBool p)) (hj : Delivers j m (yBool q)) (hpq : p ↔ q) (y : Wide) :
    Delivers i s (yOnly y) ↔ Delivers j m (yOnly y) := by
  rw [delivers_iff_eq hi, delivers_iff_eq hj, decide_eq_decide.mpr hpq]

/-- Settles O57: exchanging the operands exchanges the two integers compared, and each relation with its mirror. -/
theorem siblingComparisonsMirror : Obligations.SiblingComparisonsMirror := by
  intro s m p
  obtain ⟨heq, hne, hlt, hle, hgt, hge⟩ := integerComparisons .s24 .u24 s rfl
  obtain ⟨heq', hne', hlt', hle', hgt', hge'⟩ := integerComparisons .u24 .s24 m rfl
  have hleft : fint .s24 m.inp.x = lv .s24 (opA s) := by
    rw [fint_s24_eq_lv, BitVec.setWidth_setWidth_of_le _ (by decide), BitVec.setWidth_eq, opA]
  have hright : lv .u24 (opA m) = fint .u24 s.inp.x := (fint_u24_eq_lv s.inp.x).symm
  rw [hleft, hright] at heq' hne' hlt' hle' hgt' hge'
  exact ⟨delivers_iff_of_yBool heq heq' eq_comm p, delivers_iff_of_yBool hne hne' ne_comm p,
    delivers_iff_of_yBool hlt hgt' Iff.rfl p, delivers_iff_of_yBool hle hge' Iff.rfl p,
    delivers_iff_of_yBool hgt hlt' Iff.rfl p, delivers_iff_of_yBool hge hle' Iff.rfl p⟩

end Sys2Proof.Machine
end

section
/-! PROOFS. The overflow tests (spec/41_arithmetic.md R104 to R113, R124): each is "the exact result is out of range",
although the spec writes it by signs, by comparisons or by divisions. -/

namespace Sys2Proof.Machine

theorem not_inRange_s24 (v : Int) : ¬InRange .s24 v ↔ v < -8388608 ∨ 8388607 < v := by
  simp only [InRange, minOf, maxOf]
  omega

theorem not_inRange_u24 (v : Int) : ¬InRange .u24 v ↔ v < 0 ∨ 16777215 < v := by
  simp only [InRange, minOf, maxOf]
  omega

/-- A sum of like signs that left the range wraps to the other sign. -/
theorem addOverflow_iff {t : Ty} {va vb : Int} (ha : InRange t va) (hb : InRange t vb) :
    addOverflow t va vb = true ↔ ¬InRange t (va + vb) := by
  cases t with
  | s24 =>
    simp only [InRange, minOf, maxOf] at ha hb
    rw [addOverflow_s24, decide_eq_true_iff, not_inRange_s24, BitVec.toInt_ofInt, Int.bmod]
    split <;> omega
  | u24 =>
    simp only [InRange, minOf, maxOf] at ha hb
    rw [addOverflow, decide_eq_true_iff, not_inRange_u24, maxOf]
    omega

theorem subOverflow_iff {t : Ty} {va vb : Int} (ha : InRange t va) (hb : InRange t vb) :
    subOverflow t va vb = true ↔ ¬InRange t (va - vb) := by
  cases t with
  | s24 =>
    simp only [InRange, minOf, maxOf] at ha hb
    rw [subOverflow_s24, decide_eq_true_iff, not_inRange_s24, BitVec.toInt_ofInt, Int.bmod]
    split <;> omega
  | u24 =>
    simp only [InRange, minOf, maxOf] at ha hb
    rw [subOverflow, decide_eq_true_iff, not_inRange_u24]
    omega

/-- Dividing a bound by a positive factor tests a product of non-negative numbers against it. -/
theorem tdiv_lt_iff {m a b : Int} (hm : 0 ≤ m) (hb : 0 < b) : tdiv m b < a ↔ m < a * b := by
  rw [tdiv_eq, Int.tdiv_eq_ediv_of_nonneg hm]
  exact Int.ediv_lt_iff_lt_mul hb

theorem tdiv_neg_left (a b : Int) : tdiv (-a) b = -tdiv a b := by
  rw [tdiv_eq, tdiv_eq, Int.neg_tdiv]

theorem tdiv_neg_right (a b : Int) : tdiv a (-b) = -tdiv a b := by
  rw [tdiv_eq, tdiv_eq, Int.tdiv_neg]

/-- The four sign cases of R108: the division test bounds the product on the side its sign allows, and the other side
is not reached. -/
theorem mulOverflow_s24_iff (va vb : Int) : mulOverflow .s24 va vb = true ↔ ¬InRange .s24 (va * vb) := by
  rw [not_inRange_s24, mulOverflow]
  split_ifs with hzero hpos hneg hmixed
  · rcases hzero with rfl | rfl <;> simp
  · obtain ⟨ha, hb⟩ := hpos
    have hprod : 0 < va * vb := mul_pos ha hb
    rw [decide_eq_true_iff, tdiv_lt_iff (by decide) hb, maxOf]
    omega
  · obtain ⟨ha, hb⟩ := hneg
    have hprod : 0 < va * vb := mul_pos_of_neg_of_neg ha hb
    have htest := tdiv_lt_iff (m := maxOf .s24) (a := -va) (b := -vb) (by decide) (by omega)
    rw [tdiv_neg_right, neg_mul_neg, maxOf] at htest
    rw [decide_eq_true_iff, maxOf]
    omega
  · obtain ⟨ha, hb⟩ := hmixed
    have hprod : va * vb < 0 := mul_neg_of_pos_of_neg ha hb
    have htest := tdiv_lt_iff (m := 8388608) (a := va) (b := -vb) (by decide) (by omega)
    rw [tdiv_neg_right, ← tdiv_neg_left, mul_neg] at htest
    rw [decide_eq_true_iff, minOf]
    omega
  · have ha : va < 0 := by omega
    have hb : 0 < vb := by omega
    have hprod : va * vb < 0 := mul_neg_of_neg_of_pos ha hb
    have htest := tdiv_lt_iff (m := 8388608) (a := -va) (b := vb) (by decide) hb
    rw [neg_mul] at htest
    rw [decide_eq_true_iff, minOf, tdiv_neg_left]
    omega

theorem mulOverflow_iff {t : Ty} {va vb : Int} (ha : InRange t va) (hb : InRange t vb) :
    mulOverflow t va vb = true ↔ ¬InRange t (va * vb) := by
  cases t with
  | s24 => exact mulOverflow_s24_iff va vb
  | u24 =>
    have hprod : 0 ≤ va * vb := mul_nonneg ha.1 hb.1
    rw [mulOverflow, decide_eq_true_iff, not_inRange_u24, maxOf]
    omega

/-- The one quotient out of range is `2^23`, of `MIN_S` by -1 (`inRange_tdiv`). -/
theorem divOverflow_iff_not_inRange {t : Ty} {va vb : Int} (ha : InRange t va) (hb : InRange t vb) :
    divOverflow t va vb = true ↔ vb = 0 ∨ ¬InRange t (tdiv va vb) := by
  rw [divOverflow_iff]
  constructor
  · rintro (h0 | ⟨rfl, rfl, rfl⟩)
    · exact .inl h0
    · exact .inr (by decide)
  · rintro (h0 | hout)
    · exact .inl h0
    · by_contra! h
      obtain ⟨h0, hmin⟩ := h
      exact hout (inRange_tdiv ha hb h0 fun ⟨ht, hva, hvb⟩ => hmin ht hva hvb)

/-- Settles O31: the tests one by one; the remainder's is the division's, and its remainder is in range. -/
theorem overflowIsExactlyOutOfRange : Obligations.OverflowIsExactlyOutOfRange := by
  intro t s va vb
  have ha : InRange t va := inRange_opA t s
  have hb : InRange t vb := inRange_opB t s
  have hrem : remOverflow t va vb = true ↔ _ := remOverflow_eq t va vb ▸ divOverflow_iff t va vb
  exact ⟨addOverflow_iff ha hb, subOverflow_iff ha hb, mulOverflow_iff ha hb, divOverflow_iff_not_inRange ha hb,
    divOverflow_iff t va vb, hrem, inRange_trem (fun ht => by subst ht; exact ha.1) hb⟩

end Sys2Proof.Machine
end

section
/-! PROOFS. Sum, difference and product in both forms (spec/41_arithmetic.md R108, R109, R114 to R117), and what a
division that completes leaves (R120, R122). -/

namespace Sys2Proof.Machine

/-! ### The trapping forms -/

theorem exec_add (t : Ty) (s : State) :
    exec (t.pick .addS .addU) s = finish s (trapUnlessInRange t (lv t (opA s) + lv t (opB s))) := by
  cases t <;> rfl

theorem exec_sub (t : Ty) (s : State) :
    exec (t.pick .subS .subU) s = finish s (trapUnlessInRange t (lv t (opA s) - lv t (opB s))) := by
  cases t <;> rfl

theorem exec_mul (t : Ty) (s : State) :
    exec (t.pick .mulS .mulU) s = finish s (trapUnlessInRange t (lv t (opA s) * lv t (opB s))) := by
  cases t <;> rfl

theorem delivers_of_inRange {i : Instr} {s : State} {t : Ty} {v : Int}
    (hexec : exec i s = finish s (trapUnlessInRange t v)) (h : InRange t v) :
    Delivers i s (yOnly ((enc t v).setWidth 64)) := by
  rw [trapUnlessInRange, if_pos h] at hexec
  exact delivers_of_done hexec

theorem traps_of_not_inRange {i : Instr} {s : State} {t : Ty} {v : Int}
    (hexec : exec i s = finish s (trapUnlessInRange t v)) (h : ¬InRange t v) : Traps i s .overflow := by
  rw [trapUnlessInRange, if_neg h] at hexec
  exact traps_of_fatal hexec

/-- Settles O32: all three pass through the one range test. -/
theorem addSubMulComplete : Obligations.AddSubMulComplete := by
  intro t s
  exact ⟨delivers_of_inRange (exec_add t s), delivers_of_inRange (exec_sub t s), delivers_of_inRange (exec_mul t s)⟩

/-- Settles O33: all three pass through the one range test. -/
theorem addSubMulTrapOutOfRange : Obligations.AddSubMulTrapOutOfRange := by
  intro t s
  exact ⟨traps_of_not_inRange (exec_add t s), traps_of_not_inRange (exec_sub t s),
    traps_of_not_inRange (exec_mul t s)⟩

/-! ### The checked product -/

theorem delivers_mulro (t : Ty) (s : State) :
    Delivers (t.pick .mulroS .mulroU) s
      ⟨(if mulOverflow t (lv t (opA s)) (lv t (opB s)) then
          if s.params.mulOvfPartial = .wrapped then wrap t (lv t (opA s) * lv t (opB s)) else 0#32
        else enc t (lv t (opA s) * lv t (opB s))).setWidth 64, 0#32,
        mulOverflow t (lv t (opA s)) (lv t (opB s)), true⟩ := by
  cases t <;> rfl

/-- Settles O29: the flag is "out of range" (`mulOverflow_iff`), and the parameter chooses the word beside a set
flag. -/
theorem checkedMulResults : Obligations.CheckedMulResults := by
  refine ⟨by decide, by decide, fun t s => ?_⟩
  have h := delivers_mulro t s
  have hovf := mulOverflow_iff (inRange_opA t s) (inRange_opB t s)
  refine ⟨fun hin => ?_, fun hout => ?_⟩
  · rw [Bool.eq_false_of_not_eq_true (mt hovf.mp (not_not.mpr hin))] at h
    exact h
  · rw [hovf.mpr hout, if_pos rfl, apply_ite (BitVec.setWidth 64), wrap_setWidth64] at h
    exact h

/-! ### The checked and the trapping form of one operation -/

/-- R114 for any pair that shares its flag and, where the flag is clear, its value. -/
theorem forms_agree {ro op : Instr} {s u : State} {y : Wide} {ovf : Bool} {w : HostWord}
    (hro : Delivers ro s ⟨y, 0#32, ovf, true⟩)
    (hop : exec op s = finish s (if ovf then .fatal .overflow else giveValue w))
    (hy : ovf = false → y = w.setWidth 64) (hu : exec ro s = .next u) :
    u.out.valid = true ∧ (u.out.ovf = false → Delivers op s u.out) ∧ (u.out.ovf = true → Traps op s .overflow) := by
  obtain rfl := eq_of_delivers hro hu
  refine ⟨rfl, fun hclear => ?_, fun hset => ?_⟩
  · obtain rfl : ovf = false := hclear
    rw [hy rfl]
    exact delivers_of_done hop
  · obtain rfl : ovf = true := hset
    exact traps_of_fatal hop

/-- The range test of a trapping form, by the flag that says the same. -/
theorem trapUnlessInRange_eq {t : Ty} {v : Int} {ovf : Bool} (h : ovf = true ↔ ¬InRange t v) :
    trapUnlessInRange t v = if ovf then .fatal .overflow else giveValue (enc t v) := by
  rw [trapUnlessInRange]
  by_cases hin : InRange t v
  · rw [if_pos hin, if_neg (mt h.mp (not_not.mpr hin))]
  · rw [if_neg hin, if_pos (h.mpr hin)]

/-- Settles O35: each of the five pairs by `forms_agree`; the flags of the first three are their range tests. -/
theorem checkedAndTrappingFormsAgree : Obligations.CheckedAndTrappingFormsAgree := by
  intro t s u ro op hpair hu
  have ha := inRange_opA t s
  have hb := inRange_opB t s
  simp only [List.mem_cons, List.not_mem_nil, or_false, Prod.mk.injEq] at hpair
  rcases hpair with ⟨rfl, rfl⟩ | ⟨rfl, rfl⟩ | ⟨rfl, rfl⟩ | ⟨rfl, rfl⟩ | ⟨rfl, rfl⟩
  · refine forms_agree (delivers_addro t s) (w := enc t _) ?_ (fun _ => (wrap_setWidth64 t _).symm) hu
    rw [exec_add, trapUnlessInRange_eq (addOverflow_iff ha hb)]
  · refine forms_agree (delivers_subro t s) (w := enc t _) ?_ (fun _ => (wrap_setWidth64 t _).symm) hu
    rw [exec_sub, trapUnlessInRange_eq (subOverflow_iff ha hb)]
  · refine forms_agree (delivers_mulro t s) (w := enc t _) ?_ (fun h => by rw [h]; rfl) hu
    rw [exec_mul, trapUnlessInRange_eq (mulOverflow_iff ha hb)]
  · exact forms_agree (delivers_divro t s) (exec_div t s) (fun h => by rw [h]; rfl) hu
  · exact forms_agree (delivers_remro t s) (exec_rem t s) (fun h => by rw [h]; rfl) hu

/-! ### Divisions that complete -/

/-- Settles O36: a running block after `DIVREM` had its overflow test clear, so the pair reads back as quotient and
remainder. -/
theorem divremPairSatisfiesDivision : Obligations.DivremPairSatisfiesDivision := by
  intro t s u hs hu hrunning
  rw [exec_divrem] at hu
  have hclear : ¬divOverflow t (lv t (opA s)) (lv t (opB s)) = true := by
    intro hovf
    rw [if_pos hovf] at hu
    obtain rfl := Host.Outcome.next.inj hu
    exact Bool.noConfusion hrunning
  rw [if_neg hclear] at hu
  obtain rfl := Host.Outcome.next.inj hu
  obtain ⟨hq, hr⟩ := inRange_tdiv_trem (inRange_opA t s) (inRange_opB t s) hclear
  have h0 : lv t (opB s) ≠ 0 := fun h0 => hclear ((divOverflow_iff ..).mpr (.inl h0))
  have hy : ((enc t (tdiv (lv t (opA s)) (lv t (opB s)))).setWidth 64).setWidth 32 =
      enc t (tdiv (lv t (opA s)) (lv t (opB s))) := by
    rw [BitVec.setWidth_setWidth_of_le _ (by decide), BitVec.setWidth_eq]
  change lv t (opA s) = lv t (opB s) * lv t (((enc t _).setWidth 64).setWidth 32) + lv t (enc t _) ∧
    |lv t (enc t _)| < |lv t (opB s)|
  rw [hy, lv_enc hq, lv_enc hr, mul_tdiv_add_trem]
  exact ⟨rfl, abs_trem_lt _ h0⟩

/-- A quotient of a 48-bit dividend has 24 bits exactly when the high half is below the divisor. -/
theorem inRange_tdiv_fullWidth_iff {high low d : Int} (hhigh : 0 ≤ high) (hlow : 0 ≤ low) (hlow' : low < 16777216)
    (hd : 0 < d) : InRange .u24 (tdiv (high * 16777216 + low) d) ↔ high < d := by
  have hn : 0 ≤ high * 16777216 + low := by omega
  have hle : tdiv (high * 16777216 + low) d < 16777216 ↔ high * 16777216 + low < 16777216 * d := tdiv_lt_iff hn hd
  have hnonneg : 0 ≤ tdiv (high * 16777216 + low) d := tdiv_eq _ d ▸ Int.tdiv_nonneg hn hd.le
  simp only [InRange, minOf, maxOf]
  omega

/-- Settles O38: `DIVFW.U` delivers or traps by the range of its quotient, which the high half decides; a zero divisor
is not above any high half. -/
theorem unsignedFullWidthRange : Obligations.UnsignedFullWidthRange := by
  intro s
  obtain ⟨_, _, hresults⟩ := fullWidthDivisionResults
  obtain ⟨_, hdelivers, htraps⟩ := hresults .u24 s
  have hrange (hd : 0 < lv .u24 (opC s)) := inRange_tdiv_fullWidth_iff (high := lv .u24 (opA s))
    (low := ((opB s).toNat : Int)) (Int.natCast_nonneg _) (Int.natCast_nonneg _) (by exact_mod_cast canon_lt s.inp.b) hd
  refine ⟨fun hlt => ?_, fun hle => htraps ?_⟩
  · have hlt' : lv .u24 (opA s) < lv .u24 (opC s) := Int.ofNat_lt.mpr hlt
    have hd : 0 < lv .u24 (opC s) := lt_of_le_of_lt (Int.natCast_nonneg _) hlt'
    exact ⟨_, hdelivers hd.ne' ((hrange hd).mpr hlt'), rfl⟩
  · have hle' : lv .u24 (opC s) ≤ lv .u24 (opA s) := Int.ofNat_le.mpr hle
    have hd : 0 ≤ lv .u24 (opC s) := Int.natCast_nonneg _
    rcases hd.eq_or_lt with h0 | hpos
    · exact .inl h0.symm
    · exact .inr (mt (hrange hpos).mp hle'.not_gt)

end Sys2Proof.Machine
end

section
/-! PROOFS. The shifts by a count in `[0, 24)` (spec/42_bits_shifts.md R147, R148). -/

namespace Sys2Proof.Machine

/-- A left shift of a stored word loses what leaves its 24 bits. -/
theorem shiftLeft24_setWidth64 (a : HostWord) (n : Nat) :
    (shiftLeft24 a n).setWidth 64 = BitVec.ofNat 64 (a.toNat * 2 ^ n % 2 ^ 24) := by
  apply BitVec.eq_of_toNat_eq
  rw [BitVec.toNat_setWidth_of_le (by decide), shiftLeft24, ← canon, canon_toNat, BitVec.toNat_shiftLeft,
    Nat.shiftLeft_eq, BitVec.toNat_ofNat]
  omega

theorem ushiftRight_setWidth64 (a : HostWord) (n : Nat) :
    (a >>> n).setWidth 64 = BitVec.ofNat 64 (a.toNat / 2 ^ n) := by
  have hlt : a.toNat / 2 ^ n < 2 ^ 64 := (Nat.div_le_self _ _).trans_lt (a.isLt.trans (by decide))
  apply BitVec.eq_of_toNat_eq
  rw [BitVec.toNat_setWidth_of_le (by decide), BitVec.toNat_ushiftRight, Nat.shiftRight_eq_div_pow, BitVec.toNat_ofNat,
    Nat.mod_eq_of_lt hlt]

theorem floor_div_two_pow (v : Int) (n : Nat) : ⌊(v : ℚ) / 2 ^ n⌋ = v / 2 ^ n := by
  have h := Rat.floor_intCast_div_natCast v (2 ^ n)
  push_cast at h
  exact h

/-- With its count in range a shift command delivers the shifted word. -/
theorem delivers_of_shiftCount_inside {i : Instr} {s : State} {f : Nat → HostWord} {n : Nat}
    (hexec : exec i s = finish s (withShiftCount (opX s) f)) (hn : n < 24) (hcount : shiftCount (opX s) = (n : Int)) :
    Delivers i s (yOnly ((f n).setWidth 64)) := by
  rw [withShiftCount_inside f hn hcount] at hexec
  exact delivers_of_done hexec

/-- Settles O42: both types shift left alike; to the right only `S24` under `SHR_S_FILL = sign` shifts its value and not
its pattern. -/
theorem shiftResults : Obligations.ShiftResults := by
  refine ⟨by decide, by decide, by decide, by decide, fun s n hn hcount => ?_⟩
  have hleft (t : Ty) := delivers_of_shiftCount_inside (exec_shl t s) hn hcount
  have hright (t : Ty) := delivers_of_shiftCount_inside (exec_shr t s) hn hcount
  have hlogical {t : Ty} (ht : ¬(t = .s24 ∧ s.params.shrSFill = .sign)) :
      Delivers (t.pick .shrS .shrU) s (yOnly (BitVec.ofNat 64 ((opA s).toNat / 2 ^ n))) := by
    rw [← ushiftRight_setWidth64, ← shiftRight24_logical ht]
    exact hright t
  refine ⟨?_, ?_, hlogical (t := .u24) nofun, fun hzero => ?_, fun hsign => ?_⟩
  · exact shiftLeft24_setWidth64 (opA s) n ▸ hleft .s24
  · exact shiftLeft24_setWidth64 (opA s) n ▸ hleft .u24
  · exact hlogical (t := .s24) fun ⟨_, hsign⟩ => nomatch hzero.symm.trans hsign
  · have h := hright .s24
    rwa [hsign, shiftRight24_sign, ← floor_div_two_pow] at h

end Sys2Proof.Machine
end

section
/-! PROOFS. The pseudo-instructions of spec/30_encoding.md R67 and R68. -/

namespace Sys2Proof.Machine

/-! ### Literals and constants -/

theorem fits_i64_of_inRange {t : Ty} {i : Int} (h : InRange t i) : Fits .i64 i := by
  cases t with
  | s24 => exact ⟨le_trans (by decide) h.1, h.2.trans (by decide)⟩
  | u24 => exact ⟨le_trans (by decide) h.1, h.2.trans (by decide)⟩

/-- An integer literal that `I64` holds is issued as `CVI.EXACT` from `I64`, which reads it back (`fint_fbits`). -/
theorem lit_issues (t : Ty) (s : State) {i : Int} (h : Fits .i64 i) :
    ∃ p, assemblePseudo (.lit t) [.int i] = some p ∧ ∃ c, decode p.cmd = some c ∧
      exec c { s with inp := p } =
        finish { s with inp := p } (if InRange t i then giveValue (enc t i) else .fatal .range) := by
  refine ⟨_, assemblePseudo_lit t h, _, (decode_expandPseudo_lit t).1, ?_⟩
  have hexec := exec_cviExact t (f := .i64) rfl
    { s with inp := ⟨false, true, encode (expandPseudo (.lit t)), 0#32, 0#32, 0#32, fbits .i64 i⟩ }
  rwa [fint_fbits h] at hexec

theorem lit_delivers (t : Ty) (s : State) {i : Int} (h : InRange t i) :
    ∃ p, assemblePseudo (.lit t) [.int i] = some p ∧ ∃ c, decode p.cmd = some c ∧
      Delivers c { s with inp := p } (yOnly ((enc t i).setWidth 64)) := by
  obtain ⟨p, hp, c, hc, hexec⟩ := lit_issues t s (fits_i64_of_inRange h)
  rw [if_pos h] at hexec
  exact ⟨p, hp, c, hc, delivers_of_done hexec⟩

/-- R68: the constants are literals. -/
theorem assemblePseudo_minConst (t : Ty) :
    assemblePseudo (.minConst t) [] = assemblePseudo (.lit t) [.int (minOf t)] := by
  cases t <;> rfl

theorem assemblePseudo_maxConst (t : Ty) :
    assemblePseudo (.maxConst t) [] = assemblePseudo (.lit t) [.int (maxOf t)] := by
  cases t <;> rfl

theorem enc_minOf_setWidth64 (t : Ty) : (enc t (minOf t)).setWidth 64 = t.pick 0x800000#64 0#64 := by
  cases t <;> decide

theorem enc_maxOf_setWidth64 (t : Ty) : (enc t (maxOf t)).setWidth 64 = t.pick 0x7FFFFF#64 0xFFFFFF#64 := by
  cases t <;> decide

/-- Settles O58: `LIT` and the constants by `lit_issues`, `FLIT` by the rounding conversion it is issued as. -/
theorem literalsDeliverTheirNumber : Obligations.LiteralsDeliverTheirNumber := by
  intro t s
  refine ⟨fun i hi => lit_delivers t s hi, fun i hout hlo hhi => ?_, ?_, ?_, fun x => ?_⟩
  · obtain ⟨p, hp, c, hc, hexec⟩ := lit_issues t s (i := i) ⟨hlo, hhi⟩
    rw [if_neg hout] at hexec
    exact ⟨p, hp, c, hc, traps_of_fatal hexec⟩
  · rw [assemblePseudo_minConst, ← enc_minOf_setWidth64]
    exact lit_delivers t s ⟨le_rfl, minOf_le_maxOf t⟩
  · rw [assemblePseudo_maxConst, ← enc_maxOf_setWidth64]
    exact lit_delivers t s ⟨minOf_le_maxOf t, le_rfl⟩
  · obtain ⟨_, hround⟩ := roundingConversion t .f64 rfl
    obtain ⟨hin, hout, hspecial⟩ := hround
      { s with inp := ⟨false, true, encode (expandPseudo (.flit t)), 0#32, 0#32, 0#32, x⟩ }
    exact ⟨_, assemblePseudo_flit t x, rfl, _, (decode_expandPseudo_lit t).2,
      fun num scale hx => ⟨hin num scale hx, hout num scale hx⟩, hspecial⟩

/-! ### Comparisons with the foreign operand on the left -/

/-- `holds`, the answer a command gives of how its `A` lies to its `X`, is `written` with the operands exchanged: in an
order, and with an infinity or NaN on `X`. -/
def Mirrors (holds : Rel → Bool) (written : ℚ → ℚ → Bool) (onPosInf onNegInf onNan : Bool) : Prop :=
  (∀ (r : Rel) (l q : ℚ), r.Orders l q → holds r = written q l) ∧
  holds .lt = onPosInf ∧ holds .gt = onNegInf ∧ holds .unordered = onNan

/-- R67: each written relation is issued as the command of the mirrored one. -/
theorem exists_mirror {t : Ty} {f : Fmt} {ps : Pseudo} {written : ℚ → ℚ → Bool} {onPosInf onNegInf onNan : Bool}
    (h : (ps, written, onPosInf, onNegInf, onNan) ∈
      [(Pseudo.foreignLt t f, fun u v => decide (u < v), false, true, false),
        (.foreignLe t f, fun u v => decide (u ≤ v), false, true, false),
        (.foreignGt t f, fun u v => decide (u > v), true, false, false),
        (.foreignGe t f, fun u v => decide (u ≥ v), true, false, false),
        (.foreignEq t f, fun u v => decide (u = v), false, false, false),
        (.foreignNe t f, fun u v => decide (u ≠ v), true, true, true)]) :
    ps ∈ [Pseudo.foreignLt t f, .foreignLe t f, .foreignGt t f, .foreignGe t f, .foreignEq t f, .foreignNe t f] ∧
    ∃ holds, Mirrors holds written onPosInf onNegInf onNan ∧
      ∀ s, exec (expandPseudo ps) s = finish s (compareRule holds t f (opA s) (opX s)) := by
  simp only [List.mem_cons, List.not_mem_nil, or_false, Prod.mk.injEq] at h
  rcases h with ⟨rfl, rfl, rfl, rfl, rfl⟩ | ⟨rfl, rfl, rfl, rfl, rfl⟩ | ⟨rfl, rfl, rfl, rfl, rfl⟩ |
    ⟨rfl, rfl, rfl, rfl, rfl⟩ | ⟨rfl, rfl, rfl, rfl, rfl⟩ | ⟨rfl, rfl, rfl, rfl, rfl⟩
  · refine ⟨by simp, relGt, ⟨fun r l q h => ?_, rfl, rfl, rfl⟩, fun s => by cases t <;> rfl⟩
    obtain ⟨_, _, _, _, hgt, _⟩ := rel_bools_of_orders h
    exact hgt
  · refine ⟨by simp, relGe, ⟨fun r l q h => ?_, rfl, rfl, rfl⟩, fun s => by cases t <;> rfl⟩
    obtain ⟨_, _, _, _, _, hge⟩ := rel_bools_of_orders h
    exact hge
  · refine ⟨by simp, relLt, ⟨fun r l q h => ?_, rfl, rfl, rfl⟩, fun s => by cases t <;> rfl⟩
    obtain ⟨_, _, hlt, _, _, _⟩ := rel_bools_of_orders h
    exact hlt
  · refine ⟨by simp, relLe, ⟨fun r l q h => ?_, rfl, rfl, rfl⟩, fun s => by cases t <;> rfl⟩
    obtain ⟨_, _, _, hle, _, _⟩ := rel_bools_of_orders h
    exact hle
  · refine ⟨by simp, relEq, ⟨fun r l q h => ?_, rfl, rfl, rfl⟩, fun s => by cases t <;> rfl⟩
    obtain ⟨heq, _, _, _, _, _⟩ := rel_bools_of_orders h
    exact heq.trans (decide_eq_decide.mpr eq_comm)
  · refine ⟨by simp, relNe, ⟨fun r l q h => ?_, rfl, rfl, rfl⟩, fun s => by cases t <;> rfl⟩
    obtain ⟨_, hne, _, _, _, _⟩ := rel_bools_of_orders h
    exact hne.trans (decide_eq_decide.mpr ne_comm)

/-- Settles O59: the issued command answers how `A` lies to the reading of `X`, which is the written relation mirrored;
an integer reading is its rational over `2^0`. -/
theorem reversedComparisonsAnswerTheWrittenRelation :
    Obligations.ReversedComparisonsAnswerTheWrittenRelation := by
  intro t f s x a ps written onPosInf onNegInf onNan h l
  obtain ⟨hps, holds, ⟨horder, hposInf, hnegInf, hnan⟩, hexec⟩ := exists_mirror h
  have hdelivers {v : Number} (hv : reading f x = v) {b : Bool} (hb : holds (relate (lv t (canon a)) v) = b) :
      Delivers (expandPseudo ps) { s with inp := ⟨false, true, encode (expandPseudo ps), a, 0#32, 0#32, x⟩ }
        (yBool b) := by
    rw [← hb, ← hv]
    exact hexec _
  have hfinite {num : Int} {scale : Nat} (hx : reading f x = .finite num scale) :=
    hdelivers hx (horder _ _ _ (orders_relate_finite _ num scale))
  refine ⟨_, _, assemblePseudo_foreign x a hps, rfl, rfl, decode_expandPseudo_foreign hps, fun hf => ?_,
    fun hf num scale hx => ?_, fun hf hx => ?_, fun hf hx => ?_, fun hf hx => ?_⟩
  · have hint := hfinite (reading_int hf x)
    rwa [pow_zero, div_one] at hint
  · exact hfinite ((reading_of_isFloat hf x).trans hx)
  · exact hdelivers ((reading_of_isFloat hf x).trans hx) hposInf
  · exact hdelivers ((reading_of_isFloat hf x).trans hx) hnegInf
  · exact hdelivers ((reading_of_isFloat hf x).trans hx) hnan

end Sys2Proof.Machine
end

section
/-! PROOFS. The floating formats (spec/43_conversion.md R171, R172, R185): the fields of an operand and of an image, and
the trip of a 24-bit value through an image and back. -/

namespace Sys2Proof.Machine

/-! ### The two formats by their widths -/

theorem fdec_f32 (x : Wide) : fdec .f32 x = ieeeDecode 8 23 x := if_neg nofun

theorem fdec_f64 (x : Wide) : fdec .f64 x = ieeeDecode 11 52 x := if_pos rfl

theorem ffloat_f32 (v : Int) : ffloat .f32 v = ieeeEncode 8 23 v := if_neg nofun

theorem ffloat_f64 (v : Int) : ffloat .f64 v = ieeeEncode 11 52 v := if_pos rfl

/-! ### Decoding by the three fields -/

/-- R171's value of a finite operand: sign, significand, and the exponent counted from that of the last fraction bit. -/
theorem ieeeDecode_finite_fields (ew fw : Nat) (x : Wide) (h : (x.extractLsb' fw ew).toNat ≠ 2 ^ ew - 1) :
    let e := (x.extractLsb' fw ew).toNat
    let m := (x.extractLsb' 0 fw).toNat
    ∃ num scale, ieeeDecode ew fw x = .finite num scale ∧
      (num : ℚ) / 2 ^ scale = (if x.getLsbD (ew + fw) then -1 else 1) * ((if e = 0 then m else 2 ^ fw + m : ℕ) : ℚ) *
        (2 : ℚ) ^ (((if e = 0 then 1 else e : ℕ) : ℤ) - ((2 ^ (ew - 1) - 1 + fw : ℕ) : ℤ)) := by
  simp only [toNat_extractLsb', pow_zero, Nat.div_one] at h ⊢
  exact ieeeDecode_finite ew fw x h

/-- An exponent field of all ones is NaN or an infinity. -/
theorem ieeeDecode_special (ew fw : Nat) (x : Wide) (h : (x.extractLsb' fw ew).toNat = 2 ^ ew - 1) :
    ieeeDecode ew fw x = if (x.extractLsb' 0 fw).toNat ≠ 0 then .nan
      else if x.getLsbD (ew + fw) then .negInf else .posInf := by
  simp only [toNat_extractLsb', pow_zero, Nat.div_one] at h ⊢
  unfold ieeeDecode
  exact if_pos h

/-- R171 for one format, with `n` the number of its largest exponent and `b` that of its smallest. -/
theorem ieeeDecode_fields {ew fw n b : Nat} (hn : 2 ^ ew - 1 = n) (hpos : 0 < n) (hb : 2 ^ (ew - 1) - 1 + fw = b)
    (x : Wide) :
    let sgn : ℚ := if x.getLsbD (ew + fw) then -1 else 1
    let e := (x.extractLsb' fw ew).toNat
    let m := (x.extractLsb' 0 fw).toNat
    (e = n → m ≠ 0 → ieeeDecode ew fw x = .nan) ∧
    (e = n → m = 0 → ieeeDecode ew fw x = if x.getLsbD (ew + fw) then .negInf else .posInf) ∧
    (e = 0 → ∃ num scale, ieeeDecode ew fw x = .finite num scale ∧
      (num : ℚ) / 2 ^ scale = sgn * m * (2 : ℚ) ^ ((1 : ℤ) - b)) ∧
    (e ≠ 0 → e ≠ n → ∃ num scale, ieeeDecode ew fw x = .finite num scale ∧
      (num : ℚ) / 2 ^ scale = sgn * (2 ^ fw + m) * (2 : ℚ) ^ ((e : ℤ) - b)) := by
  subst hn hb
  intro sgn e m
  refine ⟨fun he hm => ?_, fun he hm => ?_, fun he => ?_, fun h0 he => ?_⟩
  · rw [ieeeDecode_special ew fw x he, if_pos hm]
  · rw [ieeeDecode_special ew fw x he, if_neg (not_not.mpr hm)]
  · obtain ⟨num, scale, hx, hval⟩ := ieeeDecode_finite_fields ew fw x (he.trans_ne hpos.ne)
    rw [if_pos he, if_pos he, Nat.cast_one] at hval
    exact ⟨num, scale, hx, hval⟩
  · obtain ⟨num, scale, hx, hval⟩ := ieeeDecode_finite_fields ew fw x he
    rw [if_neg h0, if_neg h0, Nat.cast_add, Nat.cast_pow, Nat.cast_ofNat] at hval
    exact ⟨num, scale, hx, hval⟩

/-- Settles O49: both formats by `ieeeDecode_fields`, with the numbers R171 gives for each. -/
theorem floatDecoding : Obligations.FloatDecoding := by
  refine fun x => ⟨?_, ?_⟩
  · rw [fdec_f32]
    obtain ⟨hnan, hinf, hsub, hnormal⟩ :=
      ieeeDecode_fields (ew := 8) (fw := 23) (n := 255) (b := 150) (by decide) (by decide) (by decide) x
    exact ⟨hnan, hinf, hsub, hnormal⟩
  · rw [fdec_f64]
    obtain ⟨hnan, hinf, hsub, hnormal⟩ :=
      ieeeDecode_fields (ew := 11) (fw := 52) (n := 2047) (b := 1075) (by decide) (by decide) (by decide) x
    exact ⟨hnan, hinf, hsub, hnormal⟩

/-! ### Encoding by the three fields -/

/-- The fraction field of an integer with its highest bit at `k`. -/
theorem fraction_lt {g k fw : Nat} (hk : k ≤ fw) (hhi : g < 2 ^ (k + 1)) : (g - 2 ^ k) * 2 ^ (fw - k) < 2 ^ fw := by
  have hlt : g - 2 ^ k < 2 ^ k := by rw [pow_succ] at hhi; have := Nat.two_pow_pos k; omega
  calc (g - 2 ^ k) * 2 ^ (fw - k)
    _ < 2 ^ k * 2 ^ (fw - k) := Nat.mul_lt_mul_of_pos_right hlt (Nat.two_pow_pos _)
    _ = 2 ^ fw := by rw [← pow_add, Nat.add_sub_cancel' hk]

/-- Three fields side by side, each within its width. -/
theorem fields_of_sum {ew fw s e m N : Nat} (hs : s ≤ 1) (he : e < 2 ^ ew) (hm : m < 2 ^ fw)
    (hN : N = s * 2 ^ (ew + fw) + e * 2 ^ fw + m) :
    N < 2 ^ (ew + fw + 1) ∧ N / 2 ^ (ew + fw) % 2 = s ∧ N / 2 ^ fw % 2 ^ ew = e ∧ N % 2 ^ fw = m := by
  have hsplit : N = 2 ^ fw * (2 ^ ew * s + e) + m := by rw [hN, pow_add]; ring
  have hupper : N / 2 ^ fw = 2 ^ ew * s + e := by
    rw [hsplit, Nat.mul_add_div (Nat.two_pow_pos fw), Nat.div_eq_of_lt hm, Nat.add_zero]
  have htop : N / 2 ^ (ew + fw) = s := by
    rw [pow_add, Nat.mul_comm, ← Nat.div_div_eq_div_mul, hupper, Nat.mul_add_div (Nat.two_pow_pos ew),
      Nat.div_eq_of_lt he, Nat.add_zero]
  refine ⟨?_, by omega, by rw [hupper, Nat.mul_add_mod, Nat.mod_eq_of_lt he],
    by rw [hsplit, Nat.mul_add_mod, Nat.mod_eq_of_lt hm]⟩
  rw [pow_succ, Nat.mul_comm]
  exact (Nat.div_lt_iff_lt_mul (Nat.two_pow_pos _)).mp (by omega)

/-- A binary format with room for every 24-bit magnitude: in its fraction, in its exponents short of the largest, and
on the port. -/
def Holds24 (ew fw : Nat) : Prop :=
  23 ≤ fw ∧ 0 < 2 ^ (ew - 1) - 1 ∧ 23 + (2 ^ (ew - 1) - 1) < 2 ^ ew - 1 ∧ ew + fw + 1 ≤ 64

theorem holds24_f32 : Holds24 8 23 := by unfold Holds24; decide

theorem holds24_f64 : Holds24 11 52 := by unfold Holds24; decide

section Image

variable {ew fw k : Nat} {v : Int} (hformat : Holds24 ew fw) (hk : k ≤ 23) (hlo : 2 ^ k ≤ v.natAbs)
  (hhi : v.natAbs < 2 ^ (k + 1))

include hformat hk hlo

/-- The significand with its leading bit is the magnitude, moved up to the fraction's width. -/
theorem significand_eq : (2 : ℚ) ^ fw + (((v.natAbs - 2 ^ k) * 2 ^ (fw - k) : ℕ) : ℚ) = v.natAbs * 2 ^ (fw - k) := by
  obtain ⟨hfw, _, _, _⟩ := hformat
  have hpow : 2 ^ fw = 2 ^ k * 2 ^ (fw - k) := by rw [← pow_add, Nat.add_sub_cancel' (hk.trans hfw)]
  have hnat : 2 ^ fw + (v.natAbs - 2 ^ k) * 2 ^ (fw - k) = v.natAbs * 2 ^ (fw - k) := by
    rw [hpow, ← Nat.add_mul, Nat.add_sub_cancel' hlo]
  exact_mod_cast hnat

include hhi

/-- The fields R172 writes into an image, and the number they make. -/
theorem ieeeEncode_fields :
    (ieeeEncode ew fw v).toNat = (if v < 0 then 2 ^ (ew + fw) else 0) + (k + (2 ^ (ew - 1) - 1)) * 2 ^ fw +
      (v.natAbs - 2 ^ k) * 2 ^ (fw - k) ∧
    (ieeeEncode ew fw v).getLsbD (ew + fw) = decide (v < 0) ∧
    ((ieeeEncode ew fw v).extractLsb' fw ew).toNat = k + (2 ^ (ew - 1) - 1) ∧
    ((ieeeEncode ew fw v).extractLsb' 0 fw).toNat = (v.natAbs - 2 ^ k) * 2 ^ (fw - k) := by
  obtain ⟨hfw, _, hexp, hport⟩ := hformat
  have hsign : (if v < 0 then 2 ^ (ew + fw) else 0) = (if v < 0 then 1 else 0) * 2 ^ (ew + fw) := by split <;> simp
  obtain ⟨hlt, htop, hmid, hlow⟩ := fields_of_sum (ew := ew) (fw := fw) (s := if v < 0 then 1 else 0)
    (e := k + (2 ^ (ew - 1) - 1)) (by split <;> decide) (by omega) (fraction_lt (hk.trans hfw) hhi) rfl
  rw [← hsign] at hlt htop hmid hlow
  have hnat := congrArg BitVec.toNat (ieeeEncode_eq ew fw v k hlo hhi)
  rw [BitVec.toNat_ofNat, Nat.mod_eq_of_lt (hlt.trans_le (Nat.pow_le_pow_right (by decide) hport))] at hnat
  rw [toNat_extractLsb', toNat_extractLsb', pow_zero, Nat.div_one, ← BitVec.testBit_toNat,
    Nat.testBit_eq_decide_div_mod_eq, hnat]
  refine ⟨rfl, ?_, hmid, hlow⟩
  rw [htop, decide_eq_decide]
  split <;> simp [*]

/-- R185: the image of a non-zero integer decodes to that integer. -/
theorem ieeeDecode_ieeeEncode_of_bit :
    ∃ num scale, ieeeDecode ew fw (ieeeEncode ew fw v) = .finite num scale ∧ (v : ℚ) = num / 2 ^ scale := by
  obtain ⟨_, hsign, hexp, hfrac⟩ := ieeeEncode_fields hformat hk hlo hhi
  have hsig := significand_eq hformat hk hlo
  obtain ⟨hfw, hbias, hmax, _⟩ := hformat
  obtain ⟨_, _, _, hnormal⟩ := ieeeDecode_fields (ew := ew) (fw := fw) rfl (by omega) rfl (ieeeEncode ew fw v)
  obtain ⟨num, scale, hx, hval⟩ := hnormal (by omega) (by omega)
  refine ⟨num, scale, hx, ?_⟩
  have hscale : ((k + (2 ^ (ew - 1) - 1) : ℕ) : ℤ) - ((2 ^ (ew - 1) - 1 + fw : ℕ) : ℤ) = -((fw - k : ℕ) : ℤ) := by omega
  rw [hval, hsign, hexp, hfrac, hsig, hscale, zpow_neg, zpow_natCast, mul_assoc, mul_assoc,
    mul_inv_cancel₀ (by positivity), mul_one]
  have habs : (v.natAbs : ℚ) = |(v : ℚ)| := by rw [Nat.cast_natAbs, Int.cast_abs]
  rw [habs]
  rcases lt_or_ge v 0 with hneg | hnonneg
  · rw [decide_eq_true hneg, if_pos rfl, abs_of_neg (by exact_mod_cast hneg), neg_one_mul, neg_neg]
  · rw [decide_eq_false hnonneg.not_gt, if_neg Bool.false_ne_true, abs_of_nonneg (by exact_mod_cast hnonneg), one_mul]

end Image

/-- The image of zero is all zero, a subnormal operand without a fraction. -/
theorem ieeeDecode_ieeeEncode_zero {ew fw : Nat} (hformat : Holds24 ew fw) :
    ∃ num scale, ieeeDecode ew fw (ieeeEncode ew fw 0) = .finite num scale ∧ ((0 : Int) : ℚ) = num / 2 ^ scale := by
  obtain ⟨_, _, hmax, _⟩ := hformat
  obtain ⟨_, _, hsub, _⟩ := ieeeDecode_fields (ew := ew) (fw := fw) rfl (by omega) rfl 0#64
  obtain ⟨num, scale, hx, hval⟩ := hsub (by simp)
  refine ⟨num, scale, hx, ?_⟩
  rw [hval]
  simp

theorem exists_highest_bit {g : Nat} (h0 : g ≠ 0) (h : g < 2 ^ 24) : ∃ k ≤ 23, 2 ^ k ≤ g ∧ g < 2 ^ (k + 1) := by
  have hlog : Nat.log 2 g < 24 := Nat.log_lt_of_lt_pow h0 h
  exact ⟨Nat.log 2 g, by omega, Nat.pow_log_le_self 2 h0, Nat.lt_pow_succ_log_self (by decide) g⟩

theorem fdec_ffloat {f : Fmt} (hf : f.isFloat = true) {v : Int} (hv : v.natAbs < 2 ^ 24) :
    ∃ num scale, fdec f (ffloat f v) = .finite num scale ∧ (v : ℚ) = num / 2 ^ scale := by
  have htrip {ew fw : Nat} (hformat : Holds24 ew fw) :
      ∃ num scale, ieeeDecode ew fw (ieeeEncode ew fw v) = .finite num scale ∧ (v : ℚ) = num / 2 ^ scale := by
    by_cases h0 : v = 0
    · subst h0
      exact ieeeDecode_ieeeEncode_zero hformat
    · obtain ⟨k, hk, hlo, hhi⟩ := exists_highest_bit (Int.natAbs_ne_zero.mpr h0) hv
      exact ieeeDecode_ieeeEncode_of_bit hformat hk hlo hhi
  cases f with
  | f32 => rw [ffloat_f32, fdec_f32]; exact htrip holds24_f32
  | f64 => rw [ffloat_f64, fdec_f64]; exact htrip holds24_f64
  | i8 | i16 | i32 | i64 | u8 | u16 | u32 | u64 | s24 | u24 => cases hf

/-! ### `CVO.FLOAT` -/

theorem natAbs_lv_opA_lt (t : Ty) (s : State) : (lv t (opA s)).natAbs < 2 ^ 24 := by
  have h := inRange_opA t s
  cases t <;> simp only [InRange, minOf, maxOf] at h <;> omega

theorem delivers_cvoFloat (t : Ty) {f : Fmt} (hf : f.isFloat = true) (s : State) :
    Delivers (t.pick (.cvoFloatS f) (.cvoFloatU f)) s (yOnly (ffloat f (lv t (opA s)))) := by
  rw [Delivers, ← finish_give, ← unlessReserved_eq hf (give _)]
  cases t <;> rfl

/-- The words of `CVO.FLOAT`, with the format's bits in the base word. -/
theorem decode_cvoFloat_word (t : Ty) {f : Fmt} (hf : f.isFloat = true) :
    decode (BitVec.ofNat 16 (0x5400 + fmtCode f) + BitVec.ofNat 16 (tyCode t * 128)) =
      some (t.pick (.cvoFloatS f) (.cvoFloatU f)) := by
  have h := decode_base_add_foreign (grp := 5) (fn := 4) t (by decide) (by decide) rfl hf
  rw [← BitVec.ofNat_add] at h ⊢
  rwa [Nat.add_right_comm, Nat.add_assoc]

/-- Settles O53: the words by their row, zero by its own image, every other value by the fields of `ieeeEncode_fields`
at its highest bit, which is below bit 24. -/
theorem floatEncoding : Obligations.FloatEncoding := by
  refine fun t => ⟨decode_cvoFloat_word t (f := .f32) rfl, decode_cvoFloat_word t (f := .f64) rfl, fun s => ?_⟩
  have h32 := delivers_cvoFloat t (f := .f32) rfl s
  have h64 := delivers_cvoFloat t (f := .f64) rfl s
  refine ⟨fun h0 => ?_, fun k hlo hhi => ?_⟩
  · rw [h0] at h32 h64
    exact ⟨h32, h64⟩
  · have hlt : k < 24 := (Nat.pow_lt_pow_iff_right (by decide)).mp (hlo.trans_lt (natAbs_lv_opA_lt t s))
    have hk : k ≤ 23 := by omega
    obtain ⟨hnat32, _⟩ := ieeeEncode_fields holds24_f32 hk hlo hhi
    obtain ⟨hnat64, _⟩ := ieeeEncode_fields holds24_f64 hk hlo hhi
    rw [ffloat_f32] at h32
    rw [ffloat_f64] at h64
    exact ⟨⟨_, h32, hnat32⟩, ⟨_, h64, hnat64⟩⟩

/-- Settles O54: the image decodes to the value (`fdec_ffloat`), which `CVI.EXACTLY` delivers, being in range. -/
theorem floatRoundTrip : Obligations.FloatRoundTrip := by
  intro t f s u hf hu
  obtain rfl := eq_of_delivers (delivers_cvoFloat t hf s) hu
  obtain ⟨num, scale, hx, hv⟩ := fdec_ffloat hf (natAbs_lv_opA_lt t s)
  have hrule := cviExactlyRule_of_integer (t := t) ((reading_of_isFloat hf _).trans hx) hv (inRange_opA t s)
  rw [opA, enc_lv_canon] at hrule
  exact delivers_cviExactly hrule

end Sys2Proof.Machine
end

section
/-! PROOFS. The three parameters (spec/00_scope.md R8): each changes the result of one family of commands, on the
operands where its two settings give different results (spec/41_arithmetic.md R108, R109, spec/42_bits_shifts.md R148,
spec/43_conversion.md R178, R179). -/

namespace Sys2Proof.Machine

/-- A function of a parameter of two settings, by its results under the two. -/
theorem ne_iff_of_two_settings {α β : Type} {a b : α} {F : α → β} {R : Prop} (htwo : ∀ p, p = a ∨ p = b)
    (h : F a ≠ F b ↔ R) (p q : α) : F p ≠ F q ↔ p ≠ q ∧ R := by
  rcases htwo p with rfl | rfl <;> rcases htwo q with rfl | rfl
  · simp
  · exact h.trans (iff_and_self.mpr fun hr => ne_of_apply_ne F (h.mpr hr))
  · exact ne_comm.trans (h.trans (iff_and_self.mpr fun hr => (ne_of_apply_ne F (h.mpr hr)).symm))
  · simp

theorem setWidth32_setWidth64_self (w : HostWord) : (w.setWidth 64).setWidth 32 = w := by
  rw [BitVec.setWidth_setWidth_of_le _ (by decide), BitVec.setWidth_eq]

theorem giveFlagged_inj {v w : HostWord} {ovf : Bool} : giveFlagged v ovf = giveFlagged w ovf ↔ v = w := by
  simp only [giveFlagged, Result.done.injEq, Outputs.mk.injEq, and_true]
  exact ⟨fun h => by rw [← setWidth32_setWidth64_self v, h, setWidth32_setWidth64_self], congrArg _⟩

theorem giveValue_inj {v w : HostWord} : giveValue v = giveValue w ↔ v = w :=
  giveFlagged_inj (ovf := false)

/-! ### `SHR_S_FILL` -/

/-- The logical value of a stored word is its number, less `2^24` where the signed type reads it as negative. -/
theorem toNat_canon_by_sign (w : HostWord) :
    ((canon w).toNat : Int) = if lv .s24 (canon w) < 0 then lv .s24 (canon w) + 2 ^ 24 else lv .s24 (canon w) := by
  have hmod := lv_canon_emod .s24 w
  have hrange := inRange_lv_canon .s24 w
  simp only [InRange, minOf, maxOf] at hrange
  split <;> omega

/-- A negative value shifted by at least one place: the sign fill leaves bit 23 set, the zero fill clears it. -/
theorem fills_differ {w : HostWord} {n : Nat} (hneg : lv .s24 (canon w) < 0) (hn : 0 < n) :
    (((canon w).toNat / 2 ^ n : Nat) : Int) < lv .s24 (canon w) / 2 ^ n % 2 ^ 24 := by
  have hlt := canon_lt w
  obtain ⟨hlo, _⟩ : -8388608 ≤ lv .s24 (canon w) ∧ _ := inRange_lv_canon .s24 w
  have hpow : (0 : Int) < 2 ^ n := by positivity
  have hhalf : (canon w).toNat / 2 ^ n ≤ (canon w).toNat / 2 :=
    Nat.div_le_div_left (Nat.le_self_pow hn.ne' 2) (by decide)
  have hquot : lv .s24 (canon w) / 2 ^ n < 0 := Int.ediv_neg_of_neg_of_pos hneg hpow
  have hquot' : -8388608 ≤ lv .s24 (canon w) / 2 ^ n := (Int.le_ediv_iff_mul_le hpow).mpr (by nlinarith)
  omega

/-- The two fills give the same word for a value that is not negative, and for a count of 0. -/
theorem fills_ne_iff (w : HostWord) (n : Nat) :
    shiftRight24 .zero .s24 (canon w) n ≠ shiftRight24 .sign .s24 (canon w) n ↔ lv .s24 (canon w) < 0 ∧ 0 < n := by
  have hnat : shiftRight24 .zero .s24 (canon w) n = shiftRight24 .sign .s24 (canon w) n ↔
      (((canon w).toNat / 2 ^ n : Nat) : Int) = lv .s24 (canon w) / 2 ^ n % 2 ^ 24 := by
    rw [shiftRight24_logical (p := .zero) (t := .s24) (by decide), shiftRight24_sign, ← wrap_toNat .s24,
      Int.natCast_inj, ← Nat.shiftRight_eq_div_pow, ← BitVec.toNat_ushiftRight, BitVec.toNat_inj]
  have hlt := canon_lt w
  have hsign := toNat_canon_by_sign w
  rw [ne_eq, hnat]
  by_cases hneg : lv .s24 (canon w) < 0
  · rcases Nat.eq_zero_or_pos n with rfl | hn
    · rw [if_pos hneg] at hsign
      simp only [pow_zero, Nat.div_one, Int.ediv_one]
      omega
    · exact iff_of_true (fills_differ hneg hn).ne ⟨hneg, hn⟩
  · rw [if_neg hneg] at hsign
    have hle : (canon w).toNat / 2 ^ n ≤ (canon w).toNat := Nat.div_le_self _ _
    have hquot : lv .s24 (canon w) / 2 ^ n = (((canon w).toNat / 2 ^ n : Nat) : Int) := by
      rw [← hsign, Int.natCast_div, Nat.cast_pow, Nat.cast_ofNat]
    rw [hquot]
    generalize (canon w).toNat / 2 ^ n = m at hle ⊢
    omega

/-- `SHR.S` under two settings. -/
theorem shr_params_ne_iff (p q : ShrSFill) (w : HostWord) (x : Wide) :
    withShiftCount x (shiftRight24 p .s24 (canon w)) ≠ withShiftCount x (shiftRight24 q .s24 (canon w)) ↔
      p ≠ q ∧ lv .s24 (canon w) < 0 ∧ 0 < shiftCount x ∧ shiftCount x < 24 := by
  refine ne_iff_of_two_settings (a := .zero) (b := .sign)
    (F := fun p => withShiftCount x (shiftRight24 p .s24 (canon w))) (fun p => by cases p <;> simp) ?_ p q
  by_cases hcount : shiftCount x < 0 ∨ 24 ≤ shiftCount x
  · rw [withShiftCount_outside _ hcount, withShiftCount_outside _ hcount]
    exact iff_of_false (not_not.mpr rfl) (by omega)
  · obtain ⟨n, hn⟩ : ∃ n : Nat, shiftCount x = n := ⟨(shiftCount x).toNat, by omega⟩
    rw [withShiftCount_inside _ (by omega) hn, withShiftCount_inside _ (by omega) hn, ne_eq, giveValue_inj, ← ne_eq,
      fills_ne_iff, hn]
    omega

/-! ### `MUL_OVF_PARTIAL` -/

theorem wrap_eq_zero_iff (t : Ty) (i : Int) : wrap t i = 0#32 ↔ (2 : Int) ^ 24 ∣ i := by
  rw [Int.dvd_iff_emod_eq_zero, ← wrap_toNat t, ← BitVec.toNat_inj]
  norm_cast

/-- `MULRO` under two settings. -/
theorem mulro_params_ne_iff (p q : MulOvfPartial) (t : Ty) (v w : HostWord) :
    mulroRule p t (canon v) (canon w) ≠ mulroRule q t (canon v) (canon w) ↔
      p ≠ q ∧ ¬InRange t (lv t (canon v) * lv t (canon w)) ∧ ¬(2 : Int) ^ 24 ∣ lv t (canon v) * lv t (canon w) := by
  refine ne_iff_of_two_settings (a := .zero) (b := .wrapped)
    (F := fun p => mulroRule p t (canon v) (canon w)) (fun p => by cases p <;> simp) ?_ p q
  have hovf := mulOverflow_iff (inRange_lv_canon t v) (inRange_lv_canon t w)
  rw [mulroRule, mulroRule, ne_eq, giveFlagged_inj, ← wrap_eq_zero_iff t]
  cases hflag : mulOverflow t (lv t (canon v)) (lv t (canon w)) with
  | false => simp [mt hovf.mpr (ne_true_of_eq_false hflag)]
  | true => simp [hovf.mp hflag, eq_comm]

/-! ### `F2I_ROUND` -/

/-- Of the integers nearest to `a` the half-up one is another than a nearest `e`, even at a tie, exactly at a tie above
an even integer. -/
theorem floor_add_half_ne_iff {a : ℚ} {e : Int} (hnear : |(e : ℚ) - a| ≤ 1 / 2)
    (htie : |(e : ℚ) - a| = 1 / 2 → 2 ∣ e) : ⌊a + 1 / 2⌋ ≠ e ↔ ∃ j : Int, a = 2 * j + 1 / 2 := by
  obtain ⟨hlo, hhi⟩ := abs_le.mp hnear
  constructor
  · intro hne
    have habove : (e : ℚ) + 1 / 2 ≤ a := by
      by_contra! hbelow
      exact hne (Int.floor_eq_iff.mpr ⟨by linarith, by linarith⟩)
    have ha : a = e + 1 / 2 := by linarith
    obtain ⟨j, rfl⟩ := htie (by rw [ha, sub_add_cancel_left, abs_neg]; norm_num)
    exact ⟨j, by rw [ha]; push_cast; rfl⟩
  · rintro ⟨j, rfl⟩ heq
    have hfloor : ⌊2 * (j : ℚ) + 1 / 2 + 1 / 2⌋ = 2 * j + 1 :=
      Int.floor_eq_iff.mpr ⟨by push_cast; linarith, by push_cast; linarith⟩
    rw [hfloor] at heq
    subst heq
    have heven : (2 : Int) ∣ 2 * j + 1 := htie (by
      rw [show ((2 * j + 1 : Int) : ℚ) - (2 * j + 1 / 2) = 1 / 2 by push_cast; ring]; norm_num)
    omega

/-- The two roundings differ on a tie whose lesser neighbour in magnitude is even; the sign changes neither side. -/
theorem rnd_ne_iff (num : Int) (scale : Nat) :
    rnd .tiesAway num scale ≠ rnd .tiesEven num scale ↔ ∃ j : Int, |(num : ℚ) / 2 ^ scale| = 2 * j + 1 / 2 := by
  obtain ⟨haway, hnear, htie⟩ := roundingToNearest num scale
  have hpow : (0 : ℚ) < 2 ^ scale := by positivity
  rw [haway]
  generalize rnd .tiesEven num scale = e at *
  rcases lt_trichotomy num 0 with hneg | rfl | hpos
  · have hdist : |((-e : Int) : ℚ) - -(num / 2 ^ scale)| = |(e : ℚ) - num / 2 ^ scale| := by
      rw [Int.cast_neg, ← neg_sub', abs_neg]
    rw [abs_of_neg (div_neg_of_neg_of_pos (by exact_mod_cast hneg) hpow), Int.sign_eq_neg_one_of_neg hneg,
      ← floor_add_half_ne_iff (e := -e) (hdist ▸ hnear) fun h => Int.dvd_neg.mpr (htie (hdist ▸ h))]
    omega
  · have hzero : ((0 : Int) : ℚ) / 2 ^ scale = 0 := by simp
    have hfloor : ⌊(0 : ℚ) + 1 / 2⌋ = 0 := by norm_num
    rw [hzero] at hnear htie ⊢
    rw [abs_zero, ← floor_add_half_ne_iff hnear htie, hfloor, Int.sign_zero, zero_mul]
  · rw [abs_of_pos (div_pos (by exact_mod_cast hpos) hpow), Int.sign_eq_one_of_pos hpos,
      ← floor_add_half_ne_iff hnear htie, one_mul]

/-- Two integers convert alike exactly when they are one integer or both out of range. -/
theorem rangeResult_ne_iff (t : Ty) (v w : Int) :
    ((if InRange t v then giveValue (enc t v) else .fatal .range) ≠
      if InRange t w then giveValue (enc t w) else .fatal .range) ↔ v ≠ w ∧ (InRange t v ∨ InRange t w) := by
  have henc (hv : InRange t v) (hw : InRange t w) : enc t v = enc t w ↔ v = w :=
    ⟨fun h => by rw [← lv_enc hv, h, lv_enc hw], congrArg _⟩
  by_cases hv : InRange t v <;> by_cases hw : InRange t w
  · rw [if_pos hv, if_pos hw, ne_eq, giveValue_inj, henc hv hw]
    exact ⟨fun h => ⟨h, .inl hv⟩, And.left⟩
  · rw [if_pos hv, if_neg hw]
    exact iff_of_true nofun ⟨fun h => hw (h ▸ hv), .inl hv⟩
  · rw [if_neg hv, if_pos hw]
    exact iff_of_true nofun ⟨fun h => hv (h ▸ hw), .inr hw⟩
  · rw [if_neg hv, if_neg hw]
    exact iff_of_false (not_not.mpr rfl) fun h => h.2.elim hv hw

/-- `CVI.ROUND` of a finite operand under two settings. -/
theorem cviRound_params_ne_iff_of_finite {f : Fmt} (hf : f.isFloat = true) (p q : F2iRound) (t : Ty) {x : Wide}
    {num : Int} {scale : Nat} (hx : fdec f x = .finite num scale) :
    cviRoundRule p t f x ≠ cviRoundRule q t f x ↔
      p ≠ q ∧ (InRange t (rnd .tiesAway num scale) ∨ InRange t (rnd .tiesEven num scale)) ∧
        ∃ j : Int, |(num : ℚ) / 2 ^ scale| = 2 * j + 1 / 2 := by
  refine ne_iff_of_two_settings (a := .tiesAway) (b := .tiesEven) (F := fun p => cviRoundRule p t f x)
    (fun p => by cases p <;> simp) ?_ p q
  rw [cviRoundRule_finite hf _ t hx, cviRoundRule_finite hf _ t hx, rangeResult_ne_iff, rnd_ne_iff, and_comm]

/-- `CVI.ROUND` rounds, and so depends on the setting, on a finite operand of a floating format alone. -/
theorem finite_of_cviRound_params_ne {p q : F2iRound} {t : Ty} {f : Fmt} {x : Wide}
    (h : cviRoundRule p t f x ≠ cviRoundRule q t f x) :
    f.isFloat = true ∧ ∃ num scale, fdec f x = .finite num scale := by
  cases hf : f.isFloat with
  | false => exact absurd (by rw [cviRoundRule, cviRoundRule, hf]; rfl) h
  | true =>
    have hspecial (hx : fdec f x = .posInf ∨ fdec f x = .negInf ∨ fdec f x = .nan) : False :=
      h (by rw [cviRoundRule_not_finite hf _ t hx, cviRoundRule_not_finite hf _ t hx])
    cases hx : fdec f x with
    | finite num scale => exact ⟨rfl, num, scale, rfl⟩
    | posInf => exact (hspecial (.inl hx)).elim
    | negInf => exact (hspecial (.inr (.inl hx))).elim
    | nan => exact (hspecial (.inr (.inr hx))).elim

/-! ### Every command -/

/-- Two settings show on a command and the operands of `s`: the three cases, one for each parameter. -/
def ParametersShow (i : Instr) (s : State) (p q : Params) : Prop :=
  (i = .shrS ∧ p.shrSFill ≠ q.shrSFill ∧ lv .s24 (opA s) < 0 ∧
    0 < (s.inp.x.setWidth 32).toInt ∧ (s.inp.x.setWidth 32).toInt < 24) ∨
  (∃ t : Ty, i = t.pick .mulroS .mulroU ∧ p.mulOvfPartial ≠ q.mulOvfPartial ∧
    ¬InRange t (lv t (opA s) * lv t (opB s)) ∧ ¬(2 ^ 24 ∣ lv t (opA s) * lv t (opB s))) ∨
  (∃ (t : Ty) (f : Fmt) (num : Int) (scale : Nat), i = t.pick (.cviRoundS f) (.cviRoundU f) ∧
    f.isFloat = true ∧ p.f2iRound ≠ q.f2iRound ∧ fdec f s.inp.x = .finite num scale ∧
    (InRange t (rnd .tiesAway num scale) ∨ InRange t (rnd .tiesEven num scale)) ∧
    ∃ j : Int, |(num : ℚ) / 2 ^ scale| = 2 * j + 1 / 2)

/-- The commands whose rule looks at a parameter that can matter to it. -/
def Parametric (i : Instr) : Prop :=
  i = .shrS ∨ (∃ t : Ty, i = t.pick .mulroS .mulroU) ∨ ∃ (t : Ty) (f : Fmt), i = t.pick (.cviRoundS f) (.cviRoundU f)

/-- `SHR.U` is given the fill too, and does not use it. -/
theorem ruleOf_params {i : Instr} (h : ¬Parametric i) (p q : Params) (n : Inputs) : ruleOf p n i = ruleOf q n i := by
  cases i with
  | shrS => exact absurd (.inl rfl) h
  | mulroS => exact absurd (.inr (.inl ⟨.s24, rfl⟩)) h
  | mulroU => exact absurd (.inr (.inl ⟨.u24, rfl⟩)) h
  | cviRoundS f => exact absurd (.inr (.inr ⟨.s24, f, rfl⟩)) h
  | cviRoundU f => exact absurd (.inr (.inr ⟨.u24, f, rfl⟩)) h
  | shrU =>
    have hlogical (fill : ShrSFill) : shiftRight24 fill .u24 (canon n.a) = (canon n.a >>> ·) :=
      funext fun k => shiftRight24_logical (by simp) _ k
    simp only [ruleOf, hlogical]
  | _ => rfl

theorem ruleOf_ne_of_parametersShow {i : Instr} {s : State} {p q : Params} (h : ParametersShow i s p q) :
    ruleOf p s.inp i ≠ ruleOf q s.inp i := by
  rcases h with ⟨rfl, h⟩ | ⟨t, rfl, h⟩ | ⟨t, f, num, scale, rfl, hf, hpq, hx, h⟩
  · exact (shr_params_ne_iff ..).mpr h
  · cases t <;> exact (mulro_params_ne_iff ..).mpr h
  · cases t <;> exact (cviRound_params_ne_iff_of_finite hf _ _ _ hx).mpr ⟨hpq, h⟩

theorem parametersShow_of_ruleOf_ne {i : Instr} {s : State} {p q : Params}
    (h : ruleOf p s.inp i ≠ ruleOf q s.inp i) : ParametersShow i s p q := by
  by_cases hi : Parametric i
  · rcases hi with rfl | ⟨t, rfl⟩ | ⟨t, f, rfl⟩
    · exact .inl ⟨rfl, (shr_params_ne_iff ..).mp h⟩
    · exact .inr (.inl ⟨t, rfl, (mulro_params_ne_iff ..).mp (by cases t <;> exact h)⟩)
    · have hrules : cviRoundRule p.f2iRound t f s.inp.x ≠ cviRoundRule q.f2iRound t f s.inp.x := by cases t <;> exact h
      obtain ⟨hf, num, scale, hx⟩ := finite_of_cviRound_params_ne hrules
      obtain ⟨hpq, h⟩ := (cviRound_params_ne_iff_of_finite hf _ _ t hx).mp hrules
      exact .inr (.inr ⟨t, f, num, scale, rfl, hf, hpq, hx, h⟩)
  · exact absurd (ruleOf_params hi p q s.inp) h

/-- The outcomes of a command under two settings are the same exactly when its rule answers the same. -/
theorem same_outcomes_iff {i : Instr} {s : State} (hs : s.record.fatal = false) (p q : Params) :
    ((∀ o, Delivers i { s with params := p } o ↔ Delivers i { s with params := q } o) ∧
      (∀ c, Traps i { s with params := p } c ↔ Traps i { s with params := q } c)) ↔
    ruleOf p s.inp i = ruleOf q s.inp i := by
  have hdelivers (p : Params) (o : Outputs) : Delivers i { s with params := p } o ↔ ruleOf p s.inp i = .done o :=
    delivers_iff_ruleOf hs
  have htraps (p : Params) (c : Cause) : Traps i { s with params := p } c ↔ ruleOf p s.inp i = .fatal c :=
    traps_iff_ruleOf hs
  simp only [hdelivers, htraps]
  constructor
  · rintro ⟨hdone, hfatal⟩
    cases hp : ruleOf p s.inp i with
    | done o => exact ((hdone o).mp hp).symm
    | fatal c => exact ((hfatal c).mp hp).symm
  · intro h
    simp only [h, implies_true, and_self]

/-- Settles O19: equal outcomes are equal rules, and the rules differ exactly where the parameters show. -/
theorem parametersChangeOneCommandEach : Obligations.ParametersChangeOneCommandEach := by
  intro i s p q hs
  rw [same_outcomes_iff hs]
  exact ⟨fun h hshow => ruleOf_ne_of_parametersShow hshow h,
    fun hnot => not_not.mp fun hne => hnot (parametersShow_of_ruleOf_ne hne)⟩

end Sys2Proof.Machine
end
